-- ==== Sys2Proof/Word.lean ====
section
/-! DEFINITION. The word types of the DES cipher core (R6, R10). Every value is an unsigned bit vector of its stated
width; a one-bit signal is a `Bool` (R18: signals are two-valued). -/

namespace Sys2Proof

/-- A 64-bit block (R6 `BLOCK_W`). -/
abbrev Block := BitVec 64
/-- A 64-bit key, of which `PC1` selects 56 bits (R6 `KEY_W`). -/
abbrev Key := BitVec 64
/-- A half-block, `L` or `R` (R6 `HALF_W`). -/
abbrev Half := BitVec 32
/-- A key-schedule half, `C` or `D` (R6 `CD_W`). -/
abbrev KeyHalf := BitVec 28
/-- A subkey, and the expansion of `R` (R6 `SUBKEY_W`). -/
abbrev Subkey := BitVec 48
/-- An S-box input (R6 `CHUNK_W`). -/
abbrev Chunk := BitVec 6
/-- An S-box output (R6 `NIBBLE_W`). -/
abbrev Nibble := BitVec 4
/-- An address of `SBOXROM` (R70, R73). -/
abbrev RomAddr := BitVec 9
/-- The step word `SW` (R90). -/
abbrev StepWord := BitVec 138

/-- The number of rounds and of subkeys (R6 `ROUNDS`). -/
abbrev ROUNDS : Nat := 16

/-- A round number 1..16, held as its distance from 1, so that no other index exists (R74, R97). -/
abbrev Round := Fin 16

/-- The RoundKeySet: sixteen subkeys, subkey i at position i - 1 (R34). -/
abbrev RoundKeys := Vector Subkey 16

end Sys2Proof
end

