-- ==== Sys2Proof/Config.lean ====
section
/-! DEFINITION. The configuration of an instance: types for the constant tables that cannot hold a defective table
(R44, R51, R54, R187), raw tables as they come before validation and the names of their defects (R186), the derived
constant `LATENCY` (R9), and the free values. The contents of the tables are in Machine/Tables.lean. -/

namespace Sys2Proof

/-- A permutation table of length `n` over input width `w`: `n` DES positions, each in 1..`w` (R44). A table that
breaks the contract of R111 has no term of this type (R187). -/
structure PermTable (w n : Nat) where
  entries : List Nat
  length_eq : entries.length = n
  in_range : ∀ p ∈ entries, 1 ≤ p ∧ p ≤ w
deriving DecidableEq, Repr

/-- The rotation schedule: sixteen amounts, each in 0..27 (R51). -/
abbrev ShiftTable := Vector (Fin 28) 16

/-- One 4 by 16 table of 4-bit values (R53's `T`). -/
abbrev SBoxTable := Vector (Vector Nibble 16) 4

/-- The open parameter `SBOX`: eight boxes of 4 rows of 16 columns of 4-bit values (R7, R54). -/
structure SBox where
  box : Vector SBoxTable 8
deriving DecidableEq, Repr

/-- The constant tables and `SBOX` of an instance (R8, R42). -/
structure Tables where
  ip : PermTable 64 64
  fp : PermTable 64 64
  e : PermTable 32 48
  p : PermTable 32 32
  pc1 : PermTable 64 56
  pc2 : PermTable 56 48
  shift : ShiftTable
  sbox : SBox
deriving DecidableEq, Repr

/-- A configuration before validation: lists of numbers with no promise about length or range (R186). -/
structure RawConfig where
  ip : List Nat
  fp : List Nat
  e : List Nat
  p : List Nat
  pc1 : List Nat
  pc2 : List Nat
  shift : List Nat
  sbox : List (List (List Nat))
deriving DecidableEq, Repr

/-- The configuration defects, by the spec's names (R186). -/
inductive CfgDefect where
  /-- `CFG_PERM_RANGE`: a permutation-table entry outside 1..width. -/
  | permRange
  /-- `CFG_PERM_LENGTH`: a permutation table without its declared length. -/
  | permLength
  /-- `CFG_SBOX_SHAPE`: the S-box table is not 8 boxes of 4 rows of 16 columns. -/
  | sboxShape
  /-- `CFG_SBOX_VALUE`: an S-box entry outside 0..15. -/
  | sboxValue
  /-- `CFG_SHIFT_RANGE`: a rotation amount outside 0..27, or not sixteen of them. -/
  | shiftRange
deriving DecidableEq, Repr

/-- Clock edges from the accepting edge to the first edge after which `done` = 1, both counted (R9, R219). -/
abbrev LATENCY : Nat := 34

/-- Free value (U13, R42): the 131 bits `rst ‖ start ‖ dec ‖ block_in ‖ key_in` on the input ports at the edge of a
given number, for edges past the end of what the host's script drives. DESIGN CHOICE of the form (log 2), and that all instances share it (unsafe, log 17). -/
opaque Config.freePins : Nat → BitVec 131

end Sys2Proof
end

