-- ==== Sys2Proof/Syntax.lean ====
section
/-! DEFINITION. The instructions of the core, one constructor per row of spec/opcode_table.json (R91, R99); the four
phase names (R36); and the host's notation for programs (R100, R101). -/

namespace Sys2Proof

/-- What the core does at one clock edge (R91). `rst`, `nop`, `enc` and `dec` are the commands a host can cause; `ks`,
`rnd` and `fin` are the internal micro-steps. The operands are the examined operand fields of the step word. -/
inductive Instr where
  /-- `RST`: reset (R165). -/
  | rst
  /-- `NOP`: no command (R166). -/
  | nop
  /-- `ENC block, key`: accept an encryption (R167). -/
  | enc (block : Block) (key : Key)
  /-- `DEC block, key`: accept a decryption (R168). -/
  | dec (block : Block) (key : Key)
  /-- `KS`: key-schedule micro-step for round `i`, the field `I` (R128). -/
  | ks (i : BitVec 5)
  /-- `RND`: Feistel round micro-step for round `i`, the field `I` (R158). -/
  | rnd (i : BitVec 5)
  /-- `FIN`: combine, final permutation, deliver (R159). -/
  | fin
deriving DecidableEq, Repr

/-- The sequencer phases; all four 2-bit codes are used (R36). -/
inductive Phase where
  | idle
  | ks
  | rnd
  | fin
deriving DecidableEq, Repr

/-- One line of a host program: what the host drives at one rising edge (R100). -/
inductive HostLine where
  | rst
  | nop
  | enc (block : Block) (key : Key)
  | dec (block : Block) (key : Key)
deriving DecidableEq, Repr

/-- The pseudo-instructions that expand to host lines (R101). How many lines `WAIT` is depends on the state it is issued
in, `Machine.runPseudo`. `SELFTEST` feeds a result back and is a host procedure, `Machine.selftest`. -/
inductive HostPseudo where
  /-- `NOP n`. -/
  | nops (n : Nat)
  /-- `WAIT`. -/
  | wait
  /-- `encrypt(block, key)`. -/
  | encrypt (block : Block) (key : Key)
  /-- `decrypt(block, key)`. -/
  | decrypt (block : Block) (key : Key)
deriving DecidableEq, Repr

end Sys2Proof
end

