-- ==== Sys2Proof/Machine/State.lean ====
section
/-! DEFINITION. The state of one instance (R30) with the parameters of its step function (R42), the reasons a step can
stop, and the state after reset (R55). -/

namespace Sys2Proof.Machine

/-- The ten items of R30 and nothing else: 961 bits. -/
structure Registers where
  /-- Sequencer phase (R36). -/
  PHASE : Phase
  /-- Round index: 1..16 in KS and RND, 0 otherwise (R36). -/
  I : BitVec 5
  /-- Direction of the command in progress: 0 encrypt, 1 decrypt (R35). -/
  DEC : Bool
  /-- Key-schedule half (R33). -/
  C : KeyHalf
  /-- Key-schedule half (R33). -/
  D : KeyHalf
  /-- The round-key file `K[1..16]`; entry i is at position i - 1 (R34). -/
  K : RoundKeys
  /-- Feistel half (R32). -/
  L : Half
  /-- Feistel half (R32). -/
  R : Half
  /-- Result of the last completed command (R37). -/
  OUT : Block
  /-- 1 when `OUT` holds the result of the last accepted command (R38). -/
  DONE : Bool
deriving DecidableEq, Repr

/-- The levels on the input ports at one rising edge (R31). The clock is the step itself. -/
structure Pins where
  rst : Bool
  start : Bool
  dec : Bool
  block_in : Block
  key_in : Key
deriving DecidableEq, Repr

/-- One instance and what its next steps depend on. R42 calls the configuration and the input ports parameters of the
step function; the step of this package has none, so they stand here (DESIGN CHOICE of the form, log 1, 2, 3, 4). -/
structure State extends Registers where
  /-- The contents of the S-box ROM, the parameter `SBOX` (R7, R42, R73). No step changes it (R43). -/
  sbox : SBox
  /-- The levels on the input ports at the coming edge (R42). -/
  pins : Pins
  /-- What the host will drive at the edges after that, oldest first; past its end the levels are free (U13). -/
  drive : List Pins
  /-- How many edges have passed; it indexes the free levels. -/
  edge : Nat
  /-- An RST edge has happened since power-up (R56, R206). -/
  live : Bool
deriving DecidableEq, Repr

/-- Run-time exceptions. There are none: the exception-cause table of this hardware is empty (R185). -/
inductive Fault where
deriving DecidableEq, Repr

/-- Why a step has no next state. -/
inductive Refusal where
  /-- Raised by `exec` for an instruction without a meaning yet. Safe. No arm raises it now. -/
  | notModelled (mnemonic : String)
  /-- Raised by `KS` and `RND` when `I` is outside 1..16: the spec gives no meaning and forbids inventing one (R97).
  Safe; no state with a legal (`PHASE`, `I`) raises it. -/
  | roundOutOfRange
  /-- Raised by the step when no RST edge has happened since power-up and `rst` is 0: the spec defines no other step
  from the unspecified state (R56). Safe; no state after a reset raises it. -/
  | beforeFirstReset
deriving DecidableEq, Repr

/-- Every register after an edge with `rst` = 1 (R55, R165). -/
def Registers.zero : Registers where
  PHASE := .idle
  I := 0#5
  DEC := false
  C := 0#28
  D := 0#28
  K := Vector.replicate 16 0#48
  L := 0#32
  R := 0#32
  OUT := 0#64
  DONE := false

/-- All input ports at 0. -/
def Pins.low : Pins where
  rst := false
  start := false
  dec := false
  block_in := 0#64
  key_in := 0#64

/-- The machine right after reset (R55): the registers at the spec's values. DESIGN CHOICE: it carries the table that the
spec names as the default (R7, log 3); the ports are low, nothing is scripted and no edge is counted (log 2); it is marked
as specified (log 4). No statement rests on the three of log 2. -/
def State.reset : State where
  toRegisters := Registers.zero
  sbox := SBOX_STD
  pins := Pins.low
  drive := []
  edge := 0
  live := true

end Sys2Proof.Machine
end

