-- ==== Sys2Proof/Machine/Flags.lean ====
section
/-! DEFINITION. The only status flag, `DONE` (R38), and the output functions (R39). There are no condition codes. -/

namespace Sys2Proof.Machine

/-- FIN sets `DONE` (R38, R159). -/
def State.raiseDone (s : State) : State := { s with DONE := true }
/-- ACCEPT clears `DONE` (R38, R169). -/
def State.clearDone (s : State) : State := { s with DONE := false }

/-- Output port `busy` = (`PHASE` ≠ IDLE) (R39). -/
def busy (s : State) : Bool := s.PHASE != .idle
/-- Output port `done` = `DONE` (R39). -/
def done (s : State) : Bool := s.DONE
/-- Output port `block_out` = `OUT` (R39). -/
def blockOut (s : State) : Block := s.OUT

end Sys2Proof.Machine
end

