-- ==== Sys2Proof/WellFormed.lean ====
section
/-! DEFINITION. Which terms of `Instr` are instructions the core can be in the middle of. -/

namespace Sys2Proof

/-- `i` is the plain binary number of a round, 1..16 (R92, R97). -/
def isRoundIndex (i : BitVec 5) : Bool := decide (1 ≤ i.toNat) && decide (i.toNat ≤ ROUNDS)

/-- `KS` and `RND` have a meaning for `I` in 1..16 only (R97); every block and every key is a legal operand (R98 (c)). -/
def Instr.wellFormed : Instr → Bool
  | .rst => true
  | .nop => true
  | .enc _ _ => true
  | .dec _ _ => true
  | .ks i => isRoundIndex i
  | .rnd i => isRoundIndex i
  | .fin => true

end Sys2Proof
end

