-- ==== Sys2Proof/Decode.lean ====
section
/-! DEFINITION. The step word `SW` (R90), its decoder (R91, R176), its encoder, and the rows of spec/opcode_table.json
as mask and match (R99). The decoder is total on 138-bit words; a number that is no 138-bit word is rejected by name. -/

namespace Sys2Proof

/-- The seven fields of the step word, most significant first (R90). -/
structure StepFields where
  rst : Bool
  phase : BitVec 2
  i : BitVec 5
  start : Bool
  dec : Bool
  block : Block
  key : Key
deriving DecidableEq, Repr

/-- The step word of its fields: `rst ‖ PHASE ‖ I ‖ start ‖ dec ‖ block ‖ key` (R90). -/
def StepFields.pack (f : StepFields) : StepWord :=
  BitVec.ofBool f.rst ++ f.phase ++ f.i ++ BitVec.ofBool f.start ++ BitVec.ofBool f.dec ++ f.block ++ f.key

/-- The fields of a step word, by the bit ranges of R90. -/
def StepFields.unpack (w : StepWord) : StepFields where
  rst := w.getLsbD 137
  phase := w.extractLsb' 135 2
  i := w.extractLsb' 130 5
  start := w.getLsbD 129
  dec := w.getLsbD 128
  block := w.extractLsb' 64 64
  key := w.extractLsb' 0 64

/-- The 2-bit code of a phase (R36). -/
def Phase.code : Phase → BitVec 2
  | .idle => 0b00#2
  | .ks => 0b01#2
  | .rnd => 0b10#2
  | .fin => 0b11#2

/-- The phase of a 2-bit code (R36). -/
def Phase.ofCode (c : BitVec 2) : Phase :=
  if c = 0b00#2 then .idle else if c = 0b01#2 then .ks else if c = 0b10#2 then .rnd else .fin

/-- The row and operands that the fields of a step word select (R91); the order of the tests is R176's. -/
def StepFields.instr (f : StepFields) : Instr :=
  if f.rst then .rst
  else match Phase.ofCode f.phase with
    | .idle => if f.start then (if f.dec then .dec f.block f.key else .enc f.block f.key) else .nop
    | .ks => .ks f.i
    | .rnd => .rnd f.i
    | .fin => .fin

/-- Decode a step word (R91). Total: the ten opcode bits are fully decoded (R98). -/
def decode (w : StepWord) : Instr := (StepFields.unpack w).instr

/-- Why a number is not decoded. -/
inductive DecodeError where
  /-- The number does not fit in the 138 bits of the one format (R90). -/
  | widerThanStepWord
deriving DecidableEq, Repr

/-- Decode any number. -/
def decodeNat (w : Nat) : Except DecodeError Instr :=
  if w < 2 ^ 138 then .ok (decode (BitVec.ofNat 138 w)) else .error .widerThanStepWord

/-- The decoder's reading of the low `nbits` bits of `w`, numbered as the opcode table numbers them. -/
def decodeTableWord (nbits w : Nat) : Option Instr :=
  match decodeNat (w % 2 ^ nbits) with
  | .ok i => some i
  | .error _ => none

/-- The step word of an instruction, written from R91's rows, with the bits that its row does not examine taken from
`fill`. -/
def encodeWith (fill : StepWord) (i : Instr) : StepWord :=
  let f := StepFields.unpack fill
  match i with
  | .rst => StepFields.pack { f with rst := true }
  | .nop => StepFields.pack { f with rst := false, phase := 0b00#2, start := false }
  | .enc b k =>
    StepFields.pack { f with rst := false, phase := 0b00#2, start := true, dec := false, block := b, key := k }
  | .dec b k =>
    StepFields.pack { f with rst := false, phase := 0b00#2, start := true, dec := true, block := b, key := k }
  | .ks n => StepFields.pack { f with rst := false, phase := 0b01#2, i := n }
  | .rnd n => StepFields.pack { f with rst := false, phase := 0b10#2, i := n }
  | .fin => StepFields.pack { f with rst := false, phase := 0b11#2 }

/-- The step word of an instruction. DESIGN CHOICE (safe, log 9): unexamined bits are 0. -/
def encode (i : Instr) : StepWord := encodeWith 0#138 i

/-- The mnemonic of an instruction's row (R91). -/
def Instr.mnemonic : Instr → String
  | .rst => "RST"
  | .nop => "NOP"
  | .enc _ _ => "ENC"
  | .dec _ _ => "DEC"
  | .ks _ => "KS"
  | .rnd _ => "RND"
  | .fin => "FIN"

/-- One row of spec/opcode_table.json: a step word `w` selects it when `w AND mask = match` (R99). -/
structure OpcodeRow where
  mnemonic : String
  mask : StepWord
  value : StepWord
deriving DecidableEq, Repr

/-- R99's selection test. -/
def OpcodeRow.selects (r : OpcodeRow) (w : StepWord) : Bool := (w &&& r.mask) == r.value

/-- The seven rows, masks and matches as spec/opcode_table.json writes them. -/
def opcodeTable : List OpcodeRow :=
  [⟨"RST", 0x20000000000000000000000000000000000#138, 0x20000000000000000000000000000000000#138⟩,
   ⟨"NOP", 0x38200000000000000000000000000000000#138, 0x00000000000000000000000000000000000#138⟩,
   ⟨"ENC", 0x38300000000000000000000000000000000#138, 0x00200000000000000000000000000000000#138⟩,
   ⟨"DEC", 0x38300000000000000000000000000000000#138, 0x00300000000000000000000000000000000#138⟩,
   ⟨"KS", 0x38000000000000000000000000000000000#138, 0x08000000000000000000000000000000000#138⟩,
   ⟨"RND", 0x38000000000000000000000000000000000#138, 0x10000000000000000000000000000000000#138⟩,
   ⟨"FIN", 0x38000000000000000000000000000000000#138, 0x18000000000000000000000000000000000#138⟩]

end Sys2Proof
end

