-- ==== Sys2Proof/Machine/Operands.lean ====
section
/-! DEFINITION. Operand assembly: the two bit numberings (R11), splits (R13, R94), S-box operands (R95), round indices
(R74, R96), the step word of a state (R90), and the port levels of a packed word. -/

namespace Sys2Proof.Machine

/-- `bit(v, w, p) = v[w - p]`, p in 1..w: DES position 1 is the most significant bit (R11). -/
def bit {w : Nat} (v : BitVec w) (p : Nat) : Bool := v.getLsbD (w - p)

/-- `hi32(v) = v[63:32]` (R13). -/
def hi32 (v : BitVec 64) : Half := v.extractLsb' 32 32
/-- `lo32(v) = v[31:0]` (R13). -/
def lo32 (v : BitVec 64) : Half := v.extractLsb' 0 32
/-- `hi28(v) = v[55:28]` (R13). -/
def hi28 (v : BitVec 56) : KeyHalf := v.extractLsb' 28 28
/-- `lo28(v) = v[27:0]` (R13). -/
def lo28 (v : BitVec 56) : KeyHalf := v.extractLsb' 0 28

/-- Chunk `j` of the key-mixed value: `x[47 - 6j : 42 - 6j]`, chunk 0 most significant (R95, R137). -/
def chunk (x : Subkey) (j : Fin 8) : Chunk := x.extractLsb' (42 - 6 * j.val) 6
/-- `row = ch[5] ‖ ch[0]`, the chunk's first and last bits (R95, R138). -/
def row (ch : Chunk) : BitVec 2 := ch.extractLsb' 5 1 ++ ch.extractLsb' 0 1
/-- `col = ch[4:1]`, the chunk's middle four bits (R95, R138). -/
def col (ch : Chunk) : BitVec 4 := ch.extractLsb' 1 4
/-- The `SBOXROM` address `j ‖ row ‖ col` (R73). -/
def romAddr (j : Fin 8) (r : BitVec 2) (c : BitVec 4) : RomAddr := BitVec.ofFin j ++ r ++ c

/-- The number 1..16 of a round. -/
def roundNumber (r : Round) : Nat := r.val + 1

/-- The round that the field `I` names, if it is in 1..16; no other index can be formed (R74, R97). -/
def roundOf (i : BitVec 5) : Option Round :=
  if h : 1 ≤ i.toNat ∧ i.toNat ≤ 16 then some ⟨i.toNat - 1, by omega⟩ else none

/-- The round whose subkey a RND micro-step reads: i when `DEC` = 0, 17 - i when `DEC` = 1 (R96, R157). -/
def ksel (dec : Bool) (r : Round) : Round :=
  if dec then ⟨(17 - roundNumber r) - 1, by simp only [roundNumber]; omega⟩ else r

/-- The step word that the state and the sampled inputs make (R90). -/
def stepWord (s : State) : StepWord :=
  StepFields.pack
    { rst := s.pins.rst, phase := s.PHASE.code, i := s.I, start := s.pins.start, dec := s.pins.dec,
      block := s.pins.block_in, key := s.pins.key_in }

/-- Port levels packed as `rst ‖ start ‖ dec ‖ block_in ‖ key_in`, R90's order without the state fields. -/
def Pins.ofBits (v : BitVec 131) : Pins where
  rst := v.getLsbD 130
  start := v.getLsbD 129
  dec := v.getLsbD 128
  block_in := v.extractLsb' 64 64
  key_in := v.extractLsb' 0 64

/-- The port levels in a step word (R90). -/
def Pins.ofStepWord (w : StepWord) : Pins :=
  let f := StepFields.unpack w
  { rst := f.rst, start := f.start, dec := f.dec, block_in := f.block, key_in := f.key }

end Sys2Proof.Machine
end

