-- ==== Sys2Proof/Machine/Ops.lean ====
section
/-! DEFINITION. The named reads and writes of the registers and of the address spaces `KFILE` and `SBOXROM` (R16, R70),
the reset of all registers (R165), and the host side of an edge. There is no exception entry and no exception return on
this hardware (R185, R192, R193), so no operation stands for one. -/

namespace Sys2Proof.Machine

/-- `PHASE <- ph; I <- i` (R36). -/
def State.setSeq (s : State) (ph : Phase) (i : BitVec 5) : State := { s with PHASE := ph, I := i }
/-- `DEC <- d` (R35). -/
def State.setDec (s : State) (d : Bool) : State := { s with DEC := d }
/-- `C <- c; D <- d` (R33). -/
def State.setKeyHalves (s : State) (c d : KeyHalf) : State := { s with C := c, D := d }
/-- `L <- l; R <- r` (R32). -/
def State.setHalves (s : State) (l r : Half) : State := { s with L := l, R := r }
/-- `OUT <- v` (R37). -/
def State.setOut (s : State) (v : Block) : State := { s with OUT := v }
/-- `MemWrite(KFILE, i, 48, v)` (R16, R74). -/
def State.writeK (s : State) (i : Round) (v : Subkey) : State := { s with K := s.K.set i.val v i.isLt }
/-- `MemRead(KFILE, i, 48)` (R16, R74). -/
def State.readK (s : State) (i : Round) : Subkey := s.K[i.val]
/-- Every register to its reset value; from then on the state is specified (R55, R56, R165). -/
def State.resetRegisters (s : State) : State := { s with toRegisters := Registers.zero, live := true }

end Sys2Proof.Machine

namespace Sys2Proof

/-- `SBOX(j, row, col)` (R7, R54). -/
def SBox.entry (t : SBox) (j : Fin 8) (r : BitVec 2) (c : BitVec 4) : Nibble :=
  ((t.box[j.val])[r.toNat]'r.isLt)[c.toNat]'c.isLt

/-- `MemRead(SBOXROM, a, 4)`: `a[8:6]` is the box, `a[5:4]` the row, `a[3:0]` the column (R73). -/
def SBox.readRom (t : SBox) (a : RomAddr) : Nibble :=
  t.entry (a.extractLsb' 6 3).toFin (a.extractLsb' 4 2) (a.extractLsb' 0 4)

end Sys2Proof

namespace Sys2Proof.Machine

/-- After an edge the ports carry what the host's script says next, and past its end a free level (R42, U13, log 2).
DESIGN CHOICE (unsafe, log 17): the free level is one function of the edge count, so two instances past their scripts
with equal edge counts carry equal levels, where R42 and R198 put no law between them. -/
def State.nextPins (s : State) : State :=
  match s.drive with
  | p :: ps => { s with pins := p, drive := ps, edge := s.edge + 1 }
  | [] => { s with pins := Pins.ofBits (Config.freePins s.edge), edge := s.edge + 1 }

/-- Let the host drive `p` at the coming edge. -/
def State.setPins (s : State) (p : Pins) : State := { s with pins := p }

/-- The state in which the coming edge's step word is `w`: the ports and the sequencing state are `w`'s fields, and the
state is a specified one (log 11). -/
def State.withStepWord (s : State) (w : StepWord) : State :=
  { s with
    pins := Pins.ofStepWord w, live := true
    PHASE := Phase.ofCode (StepFields.unpack w).phase, I := (StepFields.unpack w).i }

/-- What the step does at the coming edge (R176): RST whenever `rst` = 1, and on a state that no reset has specified
nothing else (R56); otherwise the row that the step word selects. -/
def selectInstr (s : State) : Except Refusal Instr :=
  if s.pins.rst || s.live then .ok (decode (stepWord s)) else .error .beforeFirstReset

end Sys2Proof.Machine
end

