-- ==== Sys2Proof/Machine/Permutation.lean ====
section
/-! DEFINITION. The bit permutation engine (R110 to R118): a pure function and its six copies. -/

namespace Sys2Proof.Machine

/-- `permute(value, table, width)`: for each table entry in order, the bit of `value` at that DES position, the first
entry giving the most significant output bit (R110). -/
def permute {w n : Nat} (t : PermTable w n) (v : BitVec w) : BitVec n :=
  (BitVec.ofBoolListBE (t.entries.map (bit v))).cast (by simp [t.length_eq])

/-- `TAB[m]`, the entry `m` of a table, 1-indexed (R16); of meaning for m in 1..n only. -/
def tab {w n : Nat} (t : PermTable w n) (m : Nat) : Nat := t.entries.getD (m - 1) 0

/-- `IPERM` (R114). -/
def iperm (b : Block) : Block := permute IP b
/-- `FPERM` (R114, R153). -/
def fperm (b : Block) : Block := permute FP b
/-- `EXPAND` (R114, R135). -/
def expand (r : Half) : Subkey := permute E r
/-- `PPERM` (R114, R141). -/
def pperm (s : Half) : Half := permute P s
/-- `PC1PERM` (R114). -/
def pc1perm (k : Key) : BitVec 56 := permute PC1 k
/-- `PC2PERM` (R114). -/
def pc2perm (cd : BitVec 56) : Subkey := permute PC2 cd

end Sys2Proof.Machine
end

