-- ==== Sys2Proof/Machine/RoundFunction.lean ====
section
/-! DEFINITION. The round-function datapath (R135 to R142): E expansion, XOR combiner, S-box array, P permutation. -/

namespace Sys2Proof.Machine

/-- Key mixing: `x = e xor k` (R136). -/
def keyMix (e k : Subkey) : Subkey := e ^^^ k

/-- Lane `j` of the S-box array: the ROM entry at `j ‖ row ‖ col` of its chunk (R138, R139). -/
def sboxLane (t : SBox) (x : Subkey) (j : Fin 8) : Nibble :=
  let ch := chunk x j
  t.readRom (romAddr j (row ch) (col ch))

/-- The eight lanes, `n_0 ‖ n_1 ‖ ... ‖ n_7` (R140). -/
def substitute (t : SBox) (x : Subkey) : Half :=
  sboxLane t x 0 ++ sboxLane t x 1 ++ sboxLane t x 2 ++ sboxLane t x 3 ++
    sboxLane t x 4 ++ sboxLane t x 5 ++ sboxLane t x 6 ++ sboxLane t x 7

/-- `f(R, k)`, the source's `roundFunction` (R142). -/
def f (t : SBox) (r : Half) (k : Subkey) : Half := pperm (substitute t (keyMix (expand r) k))

/-- `LUT_j(ch) = SBOX(j, ch[5] ‖ ch[0], ch[4:1])`: box `j` as a 64-entry table indexed by the chunk (R73). -/
def lut (t : SBox) (j : Fin 8) (ch : Chunk) : Nibble := t.entry j (row ch) (col ch)

end Sys2Proof.Machine
end

