-- ==== Sys2Proof/Machine/Feistel.lean ====
section
/-! DEFINITION. The Feistel network driver (R150 to R154) and the micro-steps `RND` (R158) and `FIN` (R159). -/

namespace Sys2Proof.Machine

/-- `IPSPLIT(block)`: (L0, R0) (R150). -/
def ipSplit (block : Block) : Half × Half :=
  let b := iperm block
  (hi32 b, lo32 b)

/-- `ROUND((L, R), k)` (R151). -/
def feistelRound (t : SBox) (lr : Half × Half) (k : Subkey) : Half × Half := (lr.2, lr.1 ^^^ f t lr.2 k)

/-- `COMBINE(L16, R16) = R16 ‖ L16` (R152). -/
def combine (l r : Half) : Block := r ++ l

/-- The pair after the first `n` rounds of R154's loop, from the pair `lr`. -/
def pairAfter (t : SBox) (lr : Half × Half) (q : RoundKeys) : (n : Nat) → n ≤ 16 → Half × Half
  | 0, _ => lr
  | n + 1, h => feistelRound t (pairAfter t lr q n (Nat.le_of_succ_le h)) q[n]

/-- `feistel(block, (q1, ..., q16))` (R154). -/
def feistel (t : SBox) (block : Block) (q : RoundKeys) : Block :=
  let lr := pairAfter t (ipSplit block) q 16 (Nat.le_refl 16)
  fperm (combine lr.1 lr.2)

/-- The register writes of `RND` for round `r`: `f` of the old `R`, xor with the old `L` (R158). -/
def State.feistelStep (s : State) (r : Round) : State :=
  let lr := feistelRound s.sbox (s.L, s.R) (s.readK (ksel s.DEC r))
  let t := s.setHalves lr.1 lr.2
  if roundNumber r = 16 then t.setSeq .fin 0#5
  else t.setSeq t.PHASE (BitVec.ofNat 5 (roundNumber r + 1))

/-- `RND` (R158); outside rounds 1..16 it has no meaning (R97). -/
def execRnd (i : BitVec 5) (s : State) : Host.Outcome State Fault Refusal :=
  match roundOf i with
  | some r => .next (s.feistelStep r)
  | none => .refused .roundOutOfRange

/-- The register writes of `FIN` (R159). -/
def State.finish (s : State) : State :=
  ((s.setOut (fperm (combine s.L s.R))).raiseDone).setSeq .idle 0#5

/-- `FIN` (R159). -/
def execFin (s : State) : Host.Outcome State Fault Refusal := .next s.finish

end Sys2Proof.Machine
end

