-- ==== Sys2Proof/Machine/KeySchedule.lean ====
section
/-! DEFINITION. The key schedule generator (R120 to R127) and the micro-step `KS` (R128). -/

namespace Sys2Proof.Machine

/-- `PC1SPLIT(key)`: (C0, D0) (R120). -/
def pc1Split (key : Key) : KeyHalf × KeyHalf :=
  let cd := pc1perm key
  (hi28 cd, lo28 cd)

/-- `rotl28(x, n)` (R121). The 28-bit type is `trunc_28`; amounts outside 0..27 have no term. -/
def rotl28 (x : KeyHalf) (n : Fin 28) : KeyHalf := (x <<< n.val) ||| (x >>> (28 - n.val))

/-- `SHIFT[i]`: `MemRead(SHIFTROM, i)` (R51, R70, R123). -/
def shiftOf (r : Round) : Fin 28 := SHIFT[r.val]

/-- `SUBKEY(c, d)` (R124). -/
def subkey (c d : KeyHalf) : Subkey := pc2perm (c ++ d)

/-- (C_n, D_n): the halves after the first `n` rounds of R125's loop. -/
def halvesAfter (key : Key) : (n : Nat) → n ≤ 16 → KeyHalf × KeyHalf
  | 0, _ => pc1Split key
  | n + 1, h =>
    let cd := halvesAfter key n (Nat.le_of_succ_le h)
    (rotl28 cd.1 (shiftOf ⟨n, h⟩), rotl28 cd.2 (shiftOf ⟨n, h⟩))

/-- k_i, the subkey of round i (R125). -/
def subkeyOf (key : Key) (r : Round) : Subkey :=
  let cd := halvesAfter key (r.val + 1) r.isLt
  subkey cd.1 cd.2

/-- `generateSubkeys(key)` (R125). -/
def generateSubkeys (key : Key) : RoundKeys := Vector.ofFn (subkeyOf key)

/-- The register writes of `KS` for round `r`: the subkey comes from the rotated halves of the same micro-step, and
after round 16 the RND phase begins (R128). -/
def State.keyStep (s : State) (r : Round) : State :=
  let c := rotl28 s.C (shiftOf r)
  let d := rotl28 s.D (shiftOf r)
  let t := (s.setKeyHalves c d).writeK r (subkey c d)
  if roundNumber r = 16 then t.setSeq .rnd 1#5
  else t.setSeq t.PHASE (BitVec.ofNat 5 (roundNumber r + 1))

/-- `KS` (R128); outside rounds 1..16 it has no meaning (R97). -/
def execKs (i : BitVec 5) (s : State) : Host.Outcome State Fault Refusal :=
  match roundOf i with
  | some r => .next (s.keyStep r)
  | none => .refused .roundOutOfRange

end Sys2Proof.Machine
end

