-- ==== Sys2Proof/Machine/Commands.lean ====
section
/-! DEFINITION. The public functions (R170, R171), the commands `RST`, `NOP`, `ENC`, `DEC` (R165 to R168) and the
micro-step `ACCEPT` that `ENC` and `DEC` perform (R169). -/

namespace Sys2Proof.Machine

/-- The subkeys in the order 16 to 1 (R127, R171). -/
def reversedKeys (q : RoundKeys) : RoundKeys := Vector.ofFn fun r => q[r.rev.val]

/-- `encrypt(plaintext, key)` (R170). -/
def encrypt (t : SBox) (plaintext : Block) (key : Key) : Block := feistel t plaintext (generateSubkeys key)

/-- `decrypt(ciphertext, key)` (R171). -/
def decrypt (t : SBox) (ciphertext : Block) (key : Key) : Block :=
  feistel t ciphertext (reversedKeys (generateSubkeys key))

/-- The register writes of `ACCEPT` (R169). -/
def State.accept (s : State) (dec : Bool) (block : Block) (key : Key) : State :=
  let cd := pc1Split key
  let lr := ipSplit block
  ((((s.setDec dec).setKeyHalves cd.1 cd.2).setHalves lr.1 lr.2).clearDone).setSeq .ks 1#5

/-- `RST` (R165). -/
def execRst (s : State) : Host.Outcome State Fault Refusal := .next s.resetRegisters

/-- `NOP`: no register is written (R166). -/
def execNop (s : State) : Host.Outcome State Fault Refusal := .next s

/-- `ENC block, key`: ACCEPT with `dec` = 0 (R167). -/
def execEnc (block : Block) (key : Key) (s : State) : Host.Outcome State Fault Refusal :=
  .next (s.accept false block key)

/-- `DEC block, key`: ACCEPT with `dec` = 1 (R168). -/
def execDec (block : Block) (key : Key) (s : State) : Host.Outcome State Fault Refusal :=
  .next (s.accept true block key)

end Sys2Proof.Machine
end

