-- ==== Sys2Proof/Machine/Dispatch.lean ====
section
/-! DEFINITION. One arm per constructor of `Instr`, each a direct call of that instruction's meaning. -/

namespace Sys2Proof.Machine

/-- The effect of an instruction on a state. -/
def exec (i : Instr) (s : State) : Host.Outcome State Fault Refusal :=
  match i with
  | .rst => Sys2Proof.Machine.execRst s
  | .nop => Sys2Proof.Machine.execNop s
  | .enc block key => Sys2Proof.Machine.execEnc block key s
  | .dec block key => Sys2Proof.Machine.execDec block key s
  | .ks n => Sys2Proof.Machine.execKs n s
  | .rnd n => Sys2Proof.Machine.execRnd n s
  | .fin => Sys2Proof.Machine.execFin s

end Sys2Proof.Machine
end

