-- ==== Sys2Proof/Machine/Step.lean ====
section
/-! DEFINITION. One rising clock edge (R17, R176), and the placing of a step word for the coming edge. -/

namespace Sys2Proof.Machine

/-- One rising clock edge: select the micro-step (R176), perform its register writes, then let the host drive the ports
for the next edge. -/
def step (s : State) : Host.Outcome State Fault Refusal :=
  match selectInstr s with
  | .error r => .refused r
  | .ok i =>
    match exec i s with
    | .next t => .next t.nextPins
    | .fault r => .fault r
    | .refused r => .refused r

/-- `s` with the low `nbits` bits of `w` as the step word of the coming edge (log 11). -/
def State.withFetchWord (s : State) (nbits w : Nat) : State :=
  s.withStepWord (BitVec.ofNat 138 (w % 2 ^ nbits))

end Sys2Proof.Machine
end

