-- ==== Sys2Proof/Machine/System.lean ====
section
/-! DEFINITION. Several instances (R198): the state is the product of the instances' states and the step is their steps
taken independently. -/

namespace Sys2Proof.Machine

/-- `n` instances (R198). -/
abbrev System (n : Nat) := Vector State n

/-- One moment at which some instances have a rising clock edge and the others do not, with a common clock or with
different ones; an instance without an edge keeps its state exactly (R198, R199). Levels that hosts of several instances choose
independently are written into the instances' `pins` and `drive`; past those, log 17 holds. -/
def System.edge {n : Nat} (sys : System n) (clocked : Vector Bool n) :
    Vector (Host.Outcome State Fault Refusal) n :=
  Vector.ofFn fun k => if clocked[k.val] then step sys[k.val] else .next sys[k.val]

end Sys2Proof.Machine
end

