-- ==== Sys2Proof/Machine/Validate.lean ====
section
/-! DEFINITION. The load-time check of a configuration (R186 to R188): its defects by name, and the typed tables of a
configuration that has none. -/

namespace Sys2Proof.Machine

/-- The defects of one permutation table of declared width and length (R186). -/
def permDefects (w n : Nat) (l : List Nat) : List CfgDefect :=
  (if l.all (fun p => decide (1 ≤ p ∧ p ≤ w)) then [] else [.permRange]) ++
    (if l.length = n then [] else [.permLength])

/-- Eight boxes of four rows of sixteen columns (R54). -/
def sboxShapeOk (l : List (List (List Nat))) : Bool :=
  decide (l.length = 8) && l.all (fun b => decide (b.length = 4) && b.all (fun r => decide (r.length = 16)))

/-- Every entry in 0..15 (R54). -/
def sboxValueOk (l : List (List (List Nat))) : Bool := l.all (fun b => b.all (fun r => r.all (fun v => decide (v ≤ 15))))

/-- The defects of the S-box table (R186). -/
def sboxDefects (l : List (List (List Nat))) : List CfgDefect :=
  (if sboxShapeOk l then [] else [.sboxShape]) ++ (if sboxValueOk l then [] else [.sboxValue])

/-- The defects of the rotation schedule (R186). -/
def shiftDefects (l : List Nat) : List CfgDefect :=
  if l.length = 16 ∧ l.all (fun n => decide (n ≤ 27)) then [] else [.shiftRange]

/-- A permutation table, if the list meets its contract (R44). -/
def permTableOf (w n : Nat) (l : List Nat) : Option (PermTable w n) :=
  if h : l.length = n ∧ ∀ p ∈ l, 1 ≤ p ∧ p ≤ w then some ⟨l, h.1, h.2⟩ else none

/-- A rotation schedule, if the list meets its contract (R51). -/
def shiftTableOf (l : List Nat) : Option ShiftTable :=
  if h : l.length = 16 ∧ ∀ n ∈ l, n ≤ 27 then
    some (Vector.ofFn fun r : Fin 16 =>
      ⟨l[r.val]'(by have := r.isLt; omega), by
        have := h.2 _ (List.getElem_mem (by have := r.isLt; omega : r.val < l.length)); omega⟩)
  else none

/-- Entry (`j`, `r`, `c`) of a raw S-box table; read only of a table whose shape has been checked. -/
def rawEntry (l : List (List (List Nat))) (j r c : Nat) : Nat := ((l.getD j []).getD r []).getD c 0

/-- An S-box table, if the lists meet its contract (R54). -/
def sboxOf (l : List (List (List Nat))) : Option SBox :=
  if sboxShapeOk l && sboxValueOk l then
    some ⟨Vector.ofFn fun j : Fin 8 => Vector.ofFn fun r : Fin 4 => Vector.ofFn fun c : Fin 16 =>
      BitVec.ofNat 4 (rawEntry l j.val r.val c.val)⟩
  else none

end Sys2Proof.Machine

namespace Sys2Proof

/-- All defects of a configuration, each table against its declared width and length (R186). -/
def RawConfig.defects (c : RawConfig) : List CfgDefect :=
  Machine.permDefects 64 64 c.ip ++ Machine.permDefects 64 64 c.fp ++ Machine.permDefects 32 48 c.e ++
    Machine.permDefects 32 32 c.p ++ Machine.permDefects 64 56 c.pc1 ++ Machine.permDefects 56 48 c.pc2 ++
    Machine.sboxDefects c.sbox ++ Machine.shiftDefects c.shift

/-- Load a configuration: the typed tables, or all its defects and no tables (R187, R188: fail fast). -/
def RawConfig.load (c : RawConfig) : Except (List CfgDefect) Tables :=
  match Machine.permTableOf 64 64 c.ip, Machine.permTableOf 64 64 c.fp, Machine.permTableOf 32 48 c.e,
    Machine.permTableOf 32 32 c.p, Machine.permTableOf 64 56 c.pc1, Machine.permTableOf 56 48 c.pc2,
    Machine.shiftTableOf c.shift, Machine.sboxOf c.sbox with
  | some ip, some fp, some e, some p, some pc1, some pc2, some shift, some sbox =>
    .ok { ip := ip, fp := fp, e := e, p := p, pc1 := pc1, pc2 := pc2, shift := shift, sbox := sbox }
  | _, _, _, _, _, _, _, _ => .error c.defects

/-- Typed tables written out as raw lists again. -/
def Tables.raw (t : Tables) : RawConfig where
  ip := t.ip.entries
  fp := t.fp.entries
  e := t.e.entries
  p := t.p.entries
  pc1 := t.pc1.entries
  pc2 := t.pc2.entries
  shift := t.shift.toList.map Fin.val
  sbox := t.sbox.box.toList.map fun b => b.toList.map fun r => r.toList.map BitVec.toNat

end Sys2Proof
end

