-- ==== Sys2Proof/Machine/HostProgram.lean ====
section
/-! DEFINITION. The host's side: what each line of a program drives (R100), the pseudo-instructions (R101), and runs of
the machine under given port levels, one per edge. -/

namespace Sys2Proof

/-- What the host drives for a line. R100 leaves the unexamined inputs open; the spec's programs drive them with 0
(96_test_programs.md, log 12). -/
def HostLine.pins : HostLine → Machine.Pins
  | .rst => { Machine.Pins.low with rst := true }
  | .nop => Machine.Pins.low
  | .enc b k => { rst := false, start := true, dec := false, block_in := b, key_in := k }
  | .dec b k => { rst := false, start := true, dec := true, block_in := b, key_in := k }

end Sys2Proof

namespace Sys2Proof.Machine

/-- `n` edges; it stops at the first step that has no next state. -/
def run : Nat → State → Host.Outcome State Fault Refusal
  | 0, s => .next s
  | n + 1, s =>
    match step s with
    | .next t => run n t
    | .fault r => .fault r
    | .refused r => .refused r

/-- Edges at which the host drives the given levels, in order; it stops at the first step that has no next state. -/
def runPins : List Pins → State → Host.Outcome State Fault Refusal
  | [], s => .next s
  | p :: ps, s =>
    match step (s.setPins p) with
    | .next t => runPins ps t
    | .fault r => .fault r
    | .refused r => .refused r

/-- Power comes up, for the first time or again after a loss: any register contents, of which nothing is specified until
an edge with `rst` = 1; the tables hold from the start (R56, R200, R206). -/
def State.powerUp (s : State) (contents : Registers) : State := { s with toRegisters := contents, live := false }

/-- Run a host program, one line per edge (R100). -/
def runLines (ls : List HostLine) (s : State) : Host.Outcome State Fault Refusal := runPins (ls.map HostLine.pins) s

/-- Script a program into the state: its first line on the ports, the rest to follow edge by edge. -/
def State.script (s : State) : List HostLine → State
  | [] => s
  | l :: ls => { s with pins := l.pins, drive := ls.map HostLine.pins }

/-- `WAIT` as R101 words it: `NOP` repeated until the first edge after which `done` = 1. Answers how many lines that
took and the state; nothing if `fuel` lines are not enough or a step has no next state. DESIGN CHOICE (log 16): issued
when `done` is 1 already, `WAIT` is one `NOP` line, where R101 could also be read as none. -/
def waitDone : Nat → State → Option (Nat × State)
  | 0, _ => none
  | fuel + 1, s =>
    match runLines [.nop] s with
    | .next t => if done t then some (1, t) else (waitDone fuel t).map fun r => (r.1 + 1, r.2)
    | _ => none

/-- `NOP` lines after which `WAIT` has ended if it ends at all: those after an accepted command (R101, R219). In IDLE with
`DONE` = 0 it never ends. -/
abbrev WAIT_LIMIT : Nat := 33

/-- `WAIT` issued in the state `s`: the lines it expands to there, and the state after them. -/
def runWait (s : State) : Option (List HostLine × State) :=
  (waitDone WAIT_LIMIT s).map fun r => (List.replicate r.1 .nop, r.2)

/-- Host lines and then `WAIT`. -/
def runThenWait (ls : List HostLine) (s : State) : Option (List HostLine × State) :=
  match runLines ls s with
  | .next t => (runWait t).map fun r => (ls ++ r.1, r.2)
  | _ => none

/-- A pseudo-instruction issued in the state `s` (R101): the lines it expands to there, and the state after them; nothing
if a `WAIT` never ends or a step has no next state. Issued while busy, the `ENC` or `DEC` line is ignored and `WAIT` waits
for the earlier command. -/
def runPseudo : HostPseudo → State → Option (List HostLine × State)
  | .nops n, s =>
    match runLines (List.replicate n .nop) s with
    | .next t => some (List.replicate n .nop, t)
    | _ => none
  | .wait, s => runWait s
  | .encrypt b k, s => runThenWait [.enc b k] s
  | .decrypt b k, s => runThenWait [.dec b k] s

/-- `SELFTEST block, key` (R101): encrypt, decrypt what `block_out` shows, report the three values. -/
def selftest (s : State) (block : Block) (key : Key) : Option (Block × Block × Block) :=
  match runPseudo (.encrypt block key) s with
  | some (_, t) =>
    match runPseudo (.decrypt (blockOut t) key) t with
    | some (_, u) => some (block, blockOut t, blockOut u)
    | none => none
  | none => none

end Sys2Proof.Machine
end

