-- ==== Sys2Proof/Safety.lean ====
section
/-! DEFINITION. What a safe run of the core is, in the words claims use: the legal sequencing states (R36), the
invariant of every specified state, and what the registers hold while a command is in progress (R129, R160, R177). -/

namespace Sys2Proof.Machine

/-- One of the 34 reachable pairs (`PHASE`, `I`): `I` is 0 in IDLE and FIN and 1..16 in KS and RND (R36). -/
def Registers.seqLegal (s : Registers) : Bool :=
  match s.PHASE with
  | .idle => s.I == 0#5
  | .ks => isRoundIndex s.I
  | .rnd => isRoundIndex s.I
  | .fin => s.I == 0#5

/-- What holds in every state that a reset has specified: the sequencing state is legal (R36) and `busy` and `done` are
not both 1 (R39). Of the unspecified power-up state nothing is claimed (R56). -/
def State.Inv (s : State) : Prop := s.live = true → s.seqLegal = true ∧ (s.DONE = true → s.PHASE = .idle)

/-- A specified state with a legal sequencing state: every step from it completes (R176, R185). -/
def State.Safe (s : State) : Prop := s.live = true ∧ s.seqLegal = true

/-- A specified state in which the next request is accepted (R169). -/
abbrev State.ready (s : State) : Prop := s.live = true ∧ s.PHASE = .idle

/-- The host requests a command at the edge: `rst` = 0 and `start` = 1 (R169). -/
abbrev Pins.requests (p : Pins) : Prop := p.rst = false ∧ p.start = true

/-- The host keeps `rst` at 0 at every one of the edges. -/
abbrev noReset (ps : List Pins) : Prop := ∀ p ∈ ps, p.rst = false

/-- The value a command delivers: `encrypt` or `decrypt` of its operands (R179). -/
def commandResult (t : SBox) (dec : Bool) (block : Block) (key : Key) : Block :=
  if dec then decrypt t block key else encrypt t block key

/-- The subkeys in the order in which the rounds of a command use them: q_i = k_i or k_{17-i} (R160). -/
def keyOrder (dec : Bool) (key : Key) : RoundKeys :=
  if dec then reversedKeys (generateSubkeys key) else generateSubkeys key

/-- The registers after `n` key-schedule micro-steps of a command: (KS, n + 1), `C` and `D` are C_n and D_n, the first
`n` entries of `K` are the subkeys, and the rest is as ACCEPT left it (R129). -/
def State.inSchedule (s : State) (dec : Bool) (block : Block) (key : Key) (n : Nat) (h : n < 16) : Prop :=
  s.PHASE = .ks ∧ s.I.toNat = n + 1 ∧ s.DEC = dec ∧ s.DONE = false ∧
    (s.C, s.D) = halvesAfter key n (Nat.le_of_lt h) ∧
    (∀ m : Fin 16, m.val < n → s.K[m.val] = (generateSubkeys key)[m.val]) ∧
    (s.L, s.R) = ipSplit block

/-- `C` and `D` are C_0 and D_0 and `K` is the whole schedule of `key`, as from the end of the KS phase on (R126, R129). -/
def State.scheduleDone (s : State) (dec : Bool) (key : Key) : Prop :=
  s.DEC = dec ∧ (s.C, s.D) = pc1Split key ∧ s.K = generateSubkeys key

/-- The registers after `n` rounds of a command, before round `n + 1` (R160). -/
def State.inRounds (s : State) (dec : Bool) (block : Block) (key : Key) (n : Nat) (h : n < 16) : Prop :=
  s.PHASE = .rnd ∧ s.I.toNat = n + 1 ∧ s.DONE = false ∧ s.scheduleDone dec key ∧
    (s.L, s.R) = pairAfter s.sbox (ipSplit block) (keyOrder dec key) n (Nat.le_of_lt h)

/-- The registers after the sixteen rounds of a command (R160). -/
def State.atFinish (s : State) (dec : Bool) (block : Block) (key : Key) : Prop :=
  s.PHASE = .fin ∧ s.I = 0#5 ∧ s.DONE = false ∧ s.scheduleDone dec key ∧
    (s.L, s.R) = pairAfter s.sbox (ipSplit block) (keyOrder dec key) 16 (Nat.le_refl 16)

/-- The registers once a command has delivered: the result, and the residue that R217 lists (R32, R33, R34). -/
def State.delivered (s : State) (dec : Bool) (block : Block) (key : Key) : Prop :=
  s.PHASE = .idle ∧ s.I = 0#5 ∧ s.DONE = true ∧ s.scheduleDone dec key ∧
    (s.L, s.R) = pairAfter s.sbox (ipSplit block) (keyOrder dec key) 16 (Nat.le_refl 16) ∧
    s.OUT = commandResult s.sbox dec block key

/-- The registers while the command (`dec`, `block`, `key`) is in progress or was the last to complete (R129, R160). -/
def State.carries (s : State) (dec : Bool) (block : Block) (key : Key) : Prop :=
  match s.PHASE with
  | .idle => s.delivered dec block key
  | .ks => ∃ n, ∃ h : n < 16, s.inSchedule dec block key n h
  | .rnd => ∃ n, ∃ h : n < 16, s.inRounds dec block key n h
  | .fin => s.atFinish dec block key

/-- Every register that is specified is explained: a specified state is either the state right after a reset (nothing
but zeros) or carries some command. -/
def State.explained (s : State) : Prop :=
  s.live = true →
    s.toRegisters = Registers.zero ∨ ∃ dec block key, s.carries dec block key

/-- The state after `n` edges of a command, counted from the accepting edge, 1 ≤ n ≤ 34 (R177). -/
def State.afterEdges (s : State) (dec : Bool) (block : Block) (key : Key) (n : Nat) : Prop :=
  (∃ m, ∃ h : m < 16, n = m + 1 ∧ s.inSchedule dec block key m h) ∨
  (∃ m, ∃ h : m < 16, n = m + 17 ∧ s.inRounds dec block key m h) ∨
  (n = 33 ∧ s.atFinish dec block key) ∨
  (n = 34 ∧ s.delivered dec block key)

end Sys2Proof.Machine
end

