-- ==== Sys2Proof/Certificates/Slice0/Obligations.lean ====
section
/-! DEFINITION. The statements for the provers, from the numbered rules of the spec. -/

open Sys2Proof Sys2Proof.Machine

/-! ### Encoding -/

/-- The step words of V45 to V51, V53 to V59 (95_test_vectors.md) decode to the rows and operands written there. V59's
word is `KS` by the table. -/
def Obligations.SpecStepWordsDecode : Prop :=
  decode 0x00000000000000000000000000000000000#138 = .nop ∧
  decode 0x001FFFFFFFFFFFFFFFFFFFFFFFFFFFFFFFF#138 = .nop ∧
  decode 0x0020123456789ABCDEF133457799BBCDFF1#138 = .enc 0x0123456789ABCDEF#64 0x133457799BBCDFF1#64 ∧
  decode 0x00385E813540F0AB405133457799BBCDFF1#138 = .dec 0x85E813540F0AB405#64 0x133457799BBCDFF1#64 ∧
  decode 0x08400000000000000000000000000000000#138 = .ks 1#5 ∧
  decode 0x0C3FFFFFFFFFFFFFFFFFFFFFFFFFFFFFFFF#138 = .ks 16#5 ∧
  decode 0x10400000000000000000000000000000000#138 = .rnd 1#5 ∧
  decode 0x14000000000000000000000000000000000#138 = .rnd 16#5 ∧
  decode 0x18000000000000000000000000000000000#138 = .fin ∧
  decode 0x31E0123456789ABCDEF133457799BBCDFF1#138 = .rst ∧
  decode 0x20000000000000000000000000000000000#138 = .rst ∧
  decode 0x1820123456789ABCDEF133457799BBCDFF1#138 = .fin ∧
  decode 0x08000000000000000000000000000000000#138 = .ks 0#5

/-- Decode and encode agree, both ways: every instruction, with every value of its operands and of the bits its row does
not examine, is read back from its step word, and no step word holds a bit that is neither examined, nor an operand, nor
one of the unexamined bits (R91, R99). -/
def Obligations.DecodeAndEncodeAgree : Prop :=
  (∀ (fill : StepWord) (i : Instr), decode (encodeWith fill i) = i) ∧
  (∀ w : StepWord, encodeWith w (decode w) = w)

/-- The rows of spec/opcode_table.json as mask and match: every step word selects exactly one, and it is the row of the
instruction the decoder reads (R91, R99). -/
def Obligations.OpcodeTableSelectsExactlyDecodedRow : Prop :=
  ∀ w : StepWord,
    (∀ r ∈ opcodeTable, (r.selects w = true ↔ r.mnemonic = (decode w).mnemonic)) ∧
    (∃ r ∈ opcodeTable, r.selects w = true ∧ ∀ r' ∈ opcodeTable, r'.selects w = true → r' = r)

/-- R90: the step word's fields at their bit ranges, the command record, and the opcode field that alone selects the
micro-step. -/
def Obligations.StepWordHoldsPortsAndSequencing : Prop :=
  (∀ s : State,
    (stepWord s).getLsbD 137 = s.pins.rst ∧
    (stepWord s).extractLsb' 135 2 = s.PHASE.code ∧
    (stepWord s).extractLsb' 130 5 = s.I ∧
    (stepWord s).getLsbD 129 = s.pins.start ∧
    (stepWord s).getLsbD 128 = s.pins.dec ∧
    (stepWord s).extractLsb' 64 64 = s.pins.block_in ∧
    (stepWord s).extractLsb' 0 64 = s.pins.key_in ∧
    (stepWord s).extractLsb' 0 130 =
      BitVec.ofBool s.pins.start ++ BitVec.ofBool s.pins.dec ++ s.pins.block_in ++ s.pins.key_in) ∧
  (Phase.code .idle = 0b00#2 ∧ Phase.code .ks = 0b01#2 ∧ Phase.code .rnd = 0b10#2 ∧ Phase.code .fin = 0b11#2) ∧
  (∀ w w' : StepWord, w.extractLsb' 128 10 = w'.extractLsb' 128 10 → (decode w).mnemonic = (decode w').mnemonic)

/-! ### The step -/

/-- The step is the decoded instruction's effect followed by the host's next port levels (log 2), and it stops where the
instruction stops. -/
def Obligations.StepRunsDecodedInstruction : Prop :=
  ∀ s : State, s.live = true ∨ s.pins.rst = true →
    (∀ t, exec (decode (stepWord s)) s = .next t → step s = .next t.nextPins) ∧
    (∀ r, exec (decode (stepWord s)) s = .refused r → step s = .refused r)

/-- R176: the priority decode of the step, that no reachable state is stuck, and that on the unspecified power-up state
only the first arm is defined. That each next state carries `nextPins`, the host's next port levels, is the model's
choice (log 2), and so is the mark `live` (log 4). -/
def Obligations.StepFollowsPriorityDecode : Prop :=
  (∀ s : State, s.pins.rst = true → step s = .next s.resetRegisters.nextPins) ∧
  (∀ s : State, s.live = true → s.pins.rst = false →
    (s.PHASE = .idle → s.pins.start = false → step s = .next s.nextPins) ∧
    (s.PHASE = .idle → s.pins.start = true →
      step s = .next (s.accept s.pins.dec s.pins.block_in s.pins.key_in).nextPins) ∧
    (∀ r : Round, s.PHASE = .ks → s.I.toNat = roundNumber r → step s = .next (s.keyStep r).nextPins) ∧
    (∀ r : Round, s.PHASE = .rnd → s.I.toNat = roundNumber r → step s = .next (s.feistelStep r).nextPins) ∧
    (s.PHASE = .fin → step s = .next s.finish.nextPins) ∧
    (s.seqLegal = true → ∃ t, step s = .next t)) ∧
  (∀ s : State, s.live = false → s.pins.rst = false → ∀ t, step s ≠ .next t)

/-- R56: before the first edge with `rst` = 1 nothing but RST is defined, whatever the registers hold; RST specifies
every register and leaves the tables. The mark `live` that tells such states apart is the model's choice (log 4). -/
def Obligations.PowerUpStateTakesOnlyReset : Prop :=
  ∀ s : State, s.live = false →
    (s.pins.rst = false → step s = .refused .beforeFirstReset) ∧
    (s.pins.rst = true →
      ∃ t, step s = .next t ∧ t.live = true ∧ t.toRegisters = Registers.zero ∧ t.sbox = s.sbox)

/-- The model's choice for the input ports (log 2): they follow the host's script, and past its end they carry a free
value of which nothing is known, from one function of the edge count for all runs (log 17). So a program scripted into
the state and then run freely does to the registers what driving its lines edge by edge does (R100). -/
def Obligations.PortsFollowHostScript : Prop :=
  (∀ s t : State, step s = .next t →
    t.edge = s.edge + 1 ∧
    (∀ p ps, s.drive = p :: ps → t.pins = p ∧ t.drive = ps) ∧
    (s.drive = [] → t.pins = Pins.ofBits (Config.freePins s.edge) ∧ t.drive = [])) ∧
  (∀ (ls : List HostLine) (s t : State), runLines ls s = .next t →
    ∃ u, run ls.length (s.script ls) = .next u ∧
      u.toRegisters = t.toRegisters ∧ u.sbox = t.sbox ∧ u.live = t.live)

/-! ### The micro-steps -/

/-- R55, R165: at every edge with `rst` = 1, whatever the state and the other inputs, every register takes its reset
value and the outputs are 0; doing it again changes nothing. The clauses about the model's own fields are the model's
choice: the ports, the script and the edge count stay and the step ends in `nextPins` (log 2), and `live` becomes true
(log 4). -/
def Obligations.ResetClearsEveryRegister : Prop :=
  (∀ s : State, ∃ t, exec .rst s = .next t ∧
    t.PHASE = .idle ∧ t.I = 0#5 ∧ t.DEC = false ∧ t.DONE = false ∧ t.OUT = 0x0000000000000000#64 ∧
    t.C = 0x0000000#28 ∧ t.D = 0x0000000#28 ∧ (∀ m : Fin 16, t.K[m.val] = 0x000000000000#48) ∧
    t.L = 0x00000000#32 ∧ t.R = 0x00000000#32 ∧ busy t = false ∧ done t = false ∧ blockOut t = 0#64 ∧
    t.sbox = s.sbox ∧ t.pins = s.pins ∧ t.drive = s.drive ∧ t.edge = s.edge ∧ t.live = true ∧
    exec .rst t = .next t) ∧
  (∀ s t : State, s.pins.rst = true → exec .rst s = .next t → step s = .next t.nextPins)

/-- R166: NOP writes no register, and in IDLE with `start` = 0 it is what happens whatever `dec`, `block_in` and
`key_in` carry. -/
def Obligations.NopWritesNoRegister : Prop :=
  (∀ s : State, exec .nop s = .next s) ∧
  (∀ s : State, s.ready → s.pins.rst = false → s.pins.start = false →
    ∃ t, step s = .next t ∧ t.toRegisters = s.toRegisters ∧ done t = done s ∧ blockOut t = blockOut s)

/-- R169: ACCEPT loads the direction and the four halves, clears `DONE` and goes to (KS, 1); `OUT`, all of `K` and
everything else stay. `ENC` is ACCEPT with `dec` = 0 and `DEC` is ACCEPT with `dec` = 1. That the step then ends in
`nextPins` is the model's choice (log 2). -/
def Obligations.AcceptLoadsHalvesAndDirection : Prop :=
  (∀ (s : State) (block : Block) (key : Key),
    exec (.enc block key) s = .next { s with
      DEC := false
      C := (permute PC1 key).extractLsb' 28 28, D := (permute PC1 key).extractLsb' 0 28
      L := (permute IP block).extractLsb' 32 32, R := (permute IP block).extractLsb' 0 32
      DONE := false, PHASE := .ks, I := 1#5 } ∧
    exec (.dec block key) s = .next { s with
      DEC := true
      C := (permute PC1 key).extractLsb' 28 28, D := (permute PC1 key).extractLsb' 0 28
      L := (permute IP block).extractLsb' 32 32, R := (permute IP block).extractLsb' 0 32
      DONE := false, PHASE := .ks, I := 1#5 }) ∧
  (∀ s t : State, s.ready → s.pins.requests →
    exec (if s.pins.dec then .dec s.pins.block_in s.pins.key_in else .enc s.pins.block_in s.pins.key_in) s = .next t →
    step s = .next t.nextPins) ∧
  (∀ s : State, ∃ t, exec (.enc 0x0123456789ABCDEF#64 0x133457799BBCDFF1#64) s = .next t ∧
    t.DEC = false ∧ t.C = 0xF0CCAAF#28 ∧ t.D = 0x556678F#28 ∧ t.L = 0xCC00CCFF#32 ∧ t.R = 0xF0AAF0AA#32 ∧
    t.DONE = false ∧ t.PHASE = .ks ∧ t.I = 1#5)

/-- R128: the key-schedule micro-step for round i in 1..16. That the step then ends in `nextPins` is the model's choice
(log 2). -/
def Obligations.KsRotatesAndStoresSubkey : Prop :=
  (∀ (s : State) (i : BitVec 5) (r : Round), i.toNat = r.val + 1 →
    exec (.ks i) s = .next { s with
      C := rotl28 s.C SHIFT[r.val], D := rotl28 s.D SHIFT[r.val]
      K := s.K.set r.val (permute PC2 (rotl28 s.C SHIFT[r.val] ++ rotl28 s.D SHIFT[r.val])) r.isLt
      PHASE := if i = 16#5 then .rnd else s.PHASE, I := if i = 16#5 then 1#5 else i + 1#5 }) ∧
  (∀ s t : State, s.live = true → s.pins.rst = false → s.PHASE = .ks → exec (.ks s.I) s = .next t →
    step s = .next t.nextPins) ∧
  (∀ s : State, s.PHASE = .ks → s.C = 0xF0CCAAF#28 → s.D = 0x556678F#28 →
    ∃ t, exec (.ks 1#5) s = .next t ∧ t.C = 0xE19955F#28 ∧ t.D = 0xAACCF1E#28 ∧ t.K[0] = 0x1B02EFFC7072#48 ∧
      t.I = 2#5 ∧ t.PHASE = .ks)

/-- R158: the Feistel round micro-step for round i in 1..16; `j` is the round whose subkey is read, i or 17 - i.
That the step then ends in `nextPins` is the model's choice (log 2). -/
def Obligations.RndAppliesOneFeistelRound : Prop :=
  (∀ (s : State) (i : BitVec 5) (j : Round), 1 ≤ i.toNat → i.toNat ≤ 16 →
    j.val + 1 = (if s.DEC then 17 - i.toNat else i.toNat) →
    exec (.rnd i) s = .next { s with
      L := s.R, R := s.L ^^^ f s.sbox s.R s.K[j.val]
      PHASE := if i = 16#5 then .fin else s.PHASE, I := if i = 16#5 then 0#5 else i + 1#5 }) ∧
  (∀ s t : State, s.live = true → s.pins.rst = false → s.PHASE = .rnd → exec (.rnd s.I) s = .next t →
    step s = .next t.nextPins) ∧
  (∀ s : State, s.PHASE = .rnd → s.sbox = SBOX_STD → s.DEC = false → s.L = 0xCC00CCFF#32 → s.R = 0xF0AAF0AA#32 →
    s.K[0] = 0x1B02EFFC7072#48 →
    ∃ t, exec (.rnd 1#5) s = .next t ∧ t.L = 0xF0AAF0AA#32 ∧ t.R = 0xEF4A6544#32 ∧ t.I = 2#5 ∧ t.PHASE = .rnd)

/-- R159: FIN combines, applies the final permutation and delivers. That the step then ends in `nextPins` is the model's
choice (log 2). -/
def Obligations.FinDeliversPermutedHalves : Prop :=
  (∀ s : State, exec .fin s = .next { s with
    OUT := permute FP (s.R ++ s.L), DONE := true, PHASE := .idle, I := 0#5 }) ∧
  (∀ s t : State, s.live = true → s.pins.rst = false → s.PHASE = .fin → exec .fin s = .next t →
    step s = .next t.nextPins) ∧
  (∀ s : State, s.L = 0x43423234#32 → s.R = 0x0A4CD995#32 →
    ∃ t, exec .fin s = .next t ∧ t.OUT = 0x85E813540F0AB405#64 ∧ t.DONE = true ∧ t.PHASE = .idle ∧ t.I = 0#5)

/-- KS and RND have no meaning for `I` outside 1..16 (R97). R97 lets a model make such states unrepresentable or refuse to
step from them; that this one refuses, by the name `roundOutOfRange`, is the model's choice (log 6). -/
def Obligations.RoundIndexOutsideRangeIsRefused : Prop :=
  ∀ (i : BitVec 5) (s : State), i.toNat = 0 ∨ 17 ≤ i.toNat →
    exec (.ks i) s = .refused .roundOutOfRange ∧ exec (.rnd i) s = .refused .roundOutOfRange

/-- The frame of every instruction: what each leaves unchanged of the registers (R30's column "written by", and the
"unchanged" lists of R128, R158, R159, R166, R169) and of the tables (R43). The clauses about the model's own fields are
the model's choice: the ports, the script and the edge count stay (log 2), and only RST may change `live` (log 4). -/
def Obligations.MicroStepsWriteOnlyTheirRegisters : Prop :=
  ∀ (i : Instr) (s t : State), exec i s = .next t →
    t.sbox = s.sbox ∧ t.pins = s.pins ∧ t.drive = s.drive ∧ t.edge = s.edge ∧ (i ≠ .rst → t.live = s.live) ∧
    match i with
    | .rst => True
    | .nop => t.toRegisters = s.toRegisters
    | .enc _ _ => t.OUT = s.OUT ∧ t.K = s.K
    | .dec _ _ => t.OUT = s.OUT ∧ t.K = s.K
    | .ks n =>
      t.DEC = s.DEC ∧ t.L = s.L ∧ t.R = s.R ∧ t.OUT = s.OUT ∧ t.DONE = s.DONE ∧
        ∀ m : Fin 16, m.val + 1 ≠ n.toNat → t.K[m.val] = s.K[m.val]
    | .rnd _ => t.DEC = s.DEC ∧ t.C = s.C ∧ t.D = s.D ∧ t.K = s.K ∧ t.OUT = s.OUT ∧ t.DONE = s.DONE
    | .fin => t.DEC = s.DEC ∧ t.C = s.C ∧ t.D = s.D ∧ t.K = s.K ∧ t.L = s.L ∧ t.R = s.R

/-- R210: no run changes the tables (the permutation tables and `SHIFT` are constants of the model; `SBOX` is the state's
`sbox`), and a reset does not touch them. -/
def Obligations.ConfigurationNeverChanges : Prop :=
  ∀ (n : Nat) (s t : State), run n s = .next t → t.sbox = s.sbox

/-! ### The permutation engine -/

/-- R110: every output bit of `permute`, in DES positions and in vector indices; value 0 and value all ones; the worked
examples. -/
def Obligations.PermuteSelectsListedPositions : Prop :=
  (∀ (w n : Nat) (t : PermTable w n) (v : BitVec w) (m : Nat), 1 ≤ m → m ≤ n →
    bit (permute t v) m = bit v (tab t m) ∧ (permute t v).getLsbD (n - m) = v.getLsbD (w - tab t m)) ∧
  (∀ (w n : Nat) (t : PermTable w n), permute t (0#w) = 0#n ∧ permute t (BitVec.allOnes w) = BitVec.allOnes n) ∧
  (∀ t : PermTable 4 4, t.entries = [4, 3, 2, 1] → permute t 0b1000#4 = 0b0001#4) ∧
  (∀ t : PermTable 4 2, t.entries = [4, 1] → permute t 0b1101#4 = 0b11#2) ∧
  (∀ t : PermTable 2 3, t.entries = [2, 1, 2] → permute t 0b10#2 = 0b010#3) ∧
  permute IP 0x0123456789ABCDEF#64 = 0xCC00CCFFF0AAF0AA#64

/-- R115: the table [1, 2, ..., w] reproduces the input. -/
def Obligations.IdentityTablePermutesToItself : Prop :=
  ∀ (w : Nat) (t : PermTable w w) (v : BitVec w), t.entries = List.range' 1 w → permute t v = v

/-- R117: linearity, composition, inverse (of which `FP` and `IP` are such a pair), independence. -/
def Obligations.PermutationLaws : Prop :=
  (∀ (w n : Nat) (t : PermTable w n) (a b : BitVec w),
    permute t (a ^^^ b) = permute t a ^^^ permute t b ∧ permute t (0#w) = 0#n) ∧
  (∀ (w n1 n2 : Nat) (t1 : PermTable w n1) (t2 : PermTable n1 n2) (t12 : PermTable w n2) (v : BitVec w),
    (∀ m, 1 ≤ m → m ≤ n2 → tab t12 m = tab t1 (tab t2 m)) → permute t2 (permute t1 v) = permute t12 v) ∧
  (∀ (w : Nat) (t u : PermTable w w) (v : BitVec w),
    (∀ m, 1 ≤ m → m ≤ w → tab u (tab t m) = m) → permute u (permute t v) = v) ∧
  (∀ m, 1 ≤ m → m ≤ 64 → tab FP (tab IP m) = m) ∧
  (∀ (w n : Nat) (t : PermTable w n) (v : BitVec w) (p : Nat), 1 ≤ p → p ≤ w → p ∉ t.entries →
    permute t v = permute t (v ^^^ BitVec.twoPow w (w - p)))

/-- R156: `FP` undoes `IP` and `IP` undoes `FP`, entry by entry and on every value. -/
def Obligations.FinalPermutationInvertsInitial : Prop :=
  (∀ n, 1 ≤ n → n ≤ 64 → tab FP (tab IP n) = n) ∧
  (∀ v : BitVec 64, permute FP (permute IP v) = v ∧ permute IP (permute FP v) = v)

/-- R118: the images of single bits and other values under the six instantiations. -/
def Obligations.SingleBitImagesOfTables : Prop :=
  iperm 0x8000000000000000#64 = 0x0000000001000000#64 ∧ iperm 0x0000000000000001#64 = 0x0000008000000000#64 ∧
  fperm 0x8000000000000000#64 = 0x0000000000000040#64 ∧ fperm 0x0000000000000001#64 = 0x0200000000000000#64 ∧
  expand 0x80000000#32 = 0x400000000001#48 ∧ expand 0x00000001#32 = 0x800000000002#48 ∧
  expand 0xFFFFFFFF#32 = 0xFFFFFFFFFFFF#48 ∧ pperm 0x80000000#32 = 0x00800000#32 ∧
  pperm 0x00000001#32 = 0x00000800#32 ∧ pc1perm 0x8000000000000000#64 = 0x01000000000000#56 ∧
  pc1perm 0x0101010101010101#64 = 0x00000000000000#56 ∧ pc1perm 0xFFFFFFFFFFFFFFFF#64 = 0xFFFFFFFFFFFFFF#56 ∧
  pc1perm 0x133457799BBCDFF1#64 = 0xF0CCAAF556678F#56 ∧ pc2perm 0xE19955FAACCF1E#56 = 0x1B02EFFC7072#48

/-! ### The key schedule -/

/-- R121: `rotl28` moves the bit at k to (k + n) mod 28, in vector indices and in DES positions; n = 0; the corner cases
and worked examples. -/
def Obligations.RotationMovesEveryBit : Prop :=
  (∀ (x : KeyHalf) (n : Fin 28) (k : Nat), k < 28 → (rotl28 x n).getLsbD ((k + n.val) % 28) = x.getLsbD k) ∧
  (∀ (x : KeyHalf) (n : Fin 28) (p : Nat), 1 ≤ p → p ≤ 28 →
    bit (rotl28 x n) p = bit x ((p - 1 + n.val) % 28 + 1)) ∧
  (∀ x : KeyHalf, rotl28 x 0 = x) ∧
  (∀ n : Fin 28, rotl28 0#28 n = 0#28 ∧ rotl28 0xFFFFFFF#28 n = 0xFFFFFFF#28) ∧
  rotl28 0x8000001#28 1 = 0x0000003#28 ∧ rotl28 0xC000000#28 2 = 0x0000003#28 ∧
  rotl28 0x0000001#28 27 = 0x8000000#28 ∧ rotl28 0xF0CCAAF#28 0 = 0xF0CCAAF#28 ∧
  rotl28 0xF0CCAAF#28 1 = 0xE19955F#28 ∧ rotl28 0x556678F#28 1 = 0xAACCF1E#28

/-- R122: rotations compose modulo 28; each is a bijection whose inverse is the rotation by (28 - n) mod 28; twenty-eight
single rotations are the identity. -/
def Obligations.RotationsCompose : Prop :=
  (∀ (x : KeyHalf) (a b c : Fin 28), c.val = (a.val + b.val) % 28 → rotl28 (rotl28 x a) b = rotl28 x c) ∧
  (∀ (x : KeyHalf) (n m : Fin 28), m.val = (28 - n.val) % 28 →
    rotl28 (rotl28 x n) m = x ∧ rotl28 (rotl28 x m) n = x) ∧
  (∀ n : Fin 28, Function.Bijective fun x : KeyHalf => rotl28 x n) ∧
  (∀ x : KeyHalf, (fun y : KeyHalf => rotl28 y 1)^[28] x = x)

/-- R124: the subkey is PC2 of `c ‖ d`; its high 24 bits depend only on `c` and its low 24 bits only on `d`. -/
def Obligations.SubkeyHalvesStaySeparate : Prop :=
  (∀ c d : KeyHalf, subkey c d = permute PC2 (c ++ d)) ∧
  (∀ c d d' : KeyHalf, (subkey c d).extractLsb' 24 24 = (subkey c d').extractLsb' 24 24) ∧
  (∀ c c' d : KeyHalf, (subkey c d).extractLsb' 0 24 = (subkey c' d).extractLsb' 0 24) ∧
  subkey 0#28 0#28 = 0#48 ∧ subkey 0xFFFFFFF#28 0xFFFFFFF#28 = 0xFFFFFFFFFFFF#48 ∧
  subkey 0xE19955F#28 0xAACCF1E#28 = 0x1B02EFFC7072#48

/-- R123: the halves of round i are the halves of round i - 1 rotated by `SHIFT[i]`, hence C0 and D0 rotated by the
cumulative amount modulo 28; the amount is 1 or 2. -/
def Obligations.KeyHalvesAreCumulativeRotations : Prop :=
  (∀ (key : Key) (n : Nat) (h : n < 16) (h' : n + 1 ≤ 16) (h'' : n ≤ 16),
    halvesAfter key (n + 1) h' =
      (rotl28 (halvesAfter key n h'').1 SHIFT[n], rotl28 (halvesAfter key n h'').2 SHIFT[n])) ∧
  (∀ (key : Key) (n : Nat) (h : n ≤ 16) (m : Fin 28),
    m.val = [0, 1, 2, 4, 6, 8, 10, 12, 14, 15, 17, 19, 21, 23, 25, 27, 28].getD n 0 % 28 →
    halvesAfter key n h = (rotl28 (pc1Split key).1 m, rotl28 (pc1Split key).2 m)) ∧
  (∀ r : Round, shiftOf r = if r = 0 ∨ r = 1 ∨ r = 8 ∨ r = 15 then 1 else 2)

/-- R126: the schedule has exactly sixteen subkeys, and the halves end where they began, for every key. -/
def Obligations.ScheduleReturnsToItsStart : Prop :=
  ∀ key : Key, (generateSubkeys key).toList.length = 16 ∧ halvesAfter key 16 (Nat.le_refl 16) = pc1Split key

/-- R125: the schedule of the known key, the halves and the subkey of every round. -/
def Obligations.ScheduleOfKnownKey : Prop :=
  (generateSubkeys 0x133457799BBCDFF1#64).toList =
    [0x1B02EFFC7072#48, 0x79AED9DBC9E5#48, 0x55FC8A42CF99#48, 0x72ADD6DB351D#48] ++
    [0x7CEC07EB53A8#48, 0x63A53E507B2F#48, 0xEC84B7F618BC#48, 0xF78A3AC13BFB#48] ++
    [0xE0DBEBEDE781#48, 0xB1F347BA464F#48, 0x215FD3DED386#48, 0x7571F59467E9#48] ++
    [0x97C5D1FABA41#48, 0x5F43B7F2E73A#48, 0xBF918D3D3F0A#48, 0xCB3D8B0E17F5#48] ∧
  ∀ (n : Nat) (h : n ≤ 16),
    some (halvesAfter 0x133457799BBCDFF1#64 n h) =
      ([(0xF0CCAAF#28, 0x556678F#28), (0xE19955F#28, 0xAACCF1E#28), (0xC332ABF#28, 0x5599E3D#28),
        (0x0CCAAFF#28, 0x56678F5#28), (0x332ABFC#28, 0x599E3D5#28), (0xCCAAFF0#28, 0x6678F55#28)] ++
       [(0x32ABFC3#28, 0x99E3D55#28), (0xCAAFF0C#28, 0x678F556#28), (0x2ABFC33#28, 0x9E3D559#28),
        (0x557F866#28, 0x3C7AAB3#28), (0x55FE199#28, 0xF1EAACC#28), (0x57F8665#28, 0xC7AAB33#28)] ++
       [(0x5FE1995#28, 0x1EAACCF#28), (0x7F86655#28, 0x7AAB33C#28), (0xFE19955#28, 0xEAACCF1#28),
        (0xF866557#28, 0xAAB33C7#28), (0xF0CCAAF#28, 0x556678F#28)])[n]?

/-- R130: inverting any of the eight parity positions of the key changes no subkey and no result, for every `SBOX`. -/
def Obligations.ParityBitsHaveNoEffect : Prop :=
  (∀ k m : Key, m &&& 0xFEFEFEFEFEFEFEFE#64 = 0#64 →
    generateSubkeys (k ^^^ m) = generateSubkeys k ∧
    ∀ (t : SBox) (b : Block), encrypt t b (k ^^^ m) = encrypt t b k ∧ decrypt t b (k ^^^ m) = decrypt t b k) ∧
  generateSubkeys 0x123556789ABDDEF0#64 = generateSubkeys 0x133457799BBCDFF1#64

/-! ### The round function -/

/-- R135: the expansion is `permute` by `E`, and its 6-bit group j is positions 4j .. 4j + 5 of `R`, cyclically; the
corner cases and the worked example. -/
def Obligations.ExpansionGroupsOverlap : Prop :=
  (∀ r : Half, expand r = permute E r) ∧
  (∀ (r : Half) (j m : Nat), j < 8 → m < 6 →
    bit (expand r) (6 * j + m + 1) =
      bit r (if 4 * j + m = 0 then 32 else if 4 * j + m = 33 then 1 else 4 * j + m)) ∧
  expand 0#32 = 0#48 ∧ expand 0xFFFFFFFF#32 = 0xFFFFFFFFFFFF#48 ∧ expand 0x80000000#32 = 0x400000000001#48 ∧
  expand 0x00000001#32 = 0x800000000002#48 ∧ expand 0xF0AAF0AA#32 = 0x7A15557A1555#48

/-- R73: the ROM address 64 j + 16 row + col selects `SBOX(j, row, col)`, every address is one of them, and a box indexed
by the chunk itself holds the same values. -/
def Obligations.RomAddressSelectsEntry : Prop :=
  (∀ (t : SBox) (j : Fin 8) (r : BitVec 2) (c : BitVec 4),
    (romAddr j r c).toNat = 64 * j.val + 16 * r.toNat + c.toNat ∧
    (romAddr j r c).extractLsb' 6 3 = BitVec.ofFin j ∧ (romAddr j r c).extractLsb' 4 2 = r ∧
    (romAddr j r c).extractLsb' 0 4 = c ∧ t.readRom (romAddr j r c) = t.entry j r c) ∧
  (∀ a : RomAddr, ∃ j r c, a = romAddr j r c) ∧
  (∀ (t : SBox) (x : Subkey) (j : Fin 8), sboxLane t x j = lut t j (chunk x j)) ∧
  (∀ (t : SBox) (j : Fin 8) (ch : Chunk),
    lut t j ch = t.entry j (ch.extractLsb' 5 1 ++ ch.extractLsb' 0 1) (ch.extractLsb' 1 4))

/-- R52, R53: every row of every standard box is a permutation of 0..15, and the replicated variant holds its one table
in all eight boxes. -/
def Obligations.StandardAndReplicatedBoxes : Prop :=
  (∀ (j : Fin 8) (r : BitVec 2) (v : Nibble), ∃ c, SBOX_STD.entry j r c = v) ∧
  (∀ (t : SBoxTable) (j : Fin 8) (r : BitVec 2) (c : BitVec 4),
    (SBOX_REP t).entry j r c = (t[r.toNat])[c.toNat])

/-- R142: `f` composes its six steps, for every `SBOX`; the corner cases and worked examples. -/
def Obligations.RoundFunctionComposesSixSteps : Prop :=
  (∀ (t : SBox) (r : Half) (k : Subkey),
    let x := permute E r ^^^ k
    let n := fun j : Fin 8 =>
      let ch : Chunk := x.extractLsb' (42 - 6 * j.val) 6
      t.entry j (ch.extractLsb' 5 1 ++ ch.extractLsb' 0 1) (ch.extractLsb' 1 4)
    f t r k = permute P (n 0 ++ n 1 ++ n 2 ++ n 3 ++ n 4 ++ n 5 ++ n 6 ++ n 7)) ∧
  f SBOX_STD 0#32 0#48 = 0xD8D8DBBC#32 ∧ f SBOX_STD 0xFFFFFFFF#32 0xFFFFFFFFFFFF#48 = 0xD8D8DBBC#32 ∧
  f SBOX_STD 0#32 0xFFFFFFFFFFFF#48 = 0x38DBF9CB#32 ∧
  f SBOX_STD 0xF0AAF0AA#32 0x1B02EFFC7072#48 = 0x234AA9BB#32 ∧
  f (SBOX_REP S1) 0xF0AAF0AA#32 0x1B02EFFC7072#48 = 0x755F84C6#32

/-- R144: `f(a xor b, k)` is not `f(a, k) xor f(b, k)`, although `rotl28` and the permutations around the S-box stage
are linear. The values are V26's, under both variants of the boxes. -/
def Obligations.RoundFunctionIsNotLinear : Prop :=
  f SBOX_STD (0x12345678#32 ^^^ 0x0F0F0F0F#32) 0#48 = 0x41D6D4C1#32 ∧
  f SBOX_STD 0x12345678#32 0#48 ^^^ f SBOX_STD 0x0F0F0F0F#32 0#48 = 0xA4FB6B3F#32 ∧
  f (SBOX_REP S1) (0x12345678#32 ^^^ 0x0F0F0F0F#32) 0#48 = 0xFBCA9C0D#32 ∧
  f (SBOX_REP S1) 0x12345678#32 0#48 ^^^ f (SBOX_REP S1) 0x0F0F0F0F#32 0#48 = 0x08D9674F#32 ∧
  (∀ (x y : KeyHalf) (n : Fin 28), rotl28 (x ^^^ y) n = rotl28 x n ^^^ rotl28 y n) ∧
  (∀ x y : Half, expand (x ^^^ y) = expand x ^^^ expand y ∧ pperm (x ^^^ y) = pperm x ^^^ pperm y)

/-! ### The Feistel network and the public functions -/

/-- R151: one round, its inverse, and that it is a bijection on pairs for every subkey and every `SBOX`. -/
def Obligations.FeistelRoundIsInvertible : Prop :=
  (∀ (t : SBox) (l r : Half) (k : Subkey), feistelRound t (l, r) k = (r, l ^^^ f t r k)) ∧
  (∀ (t : SBox) (k : Subkey) (l r l' r' : Half),
    feistelRound t (l, r) k = (l', r') ↔ (l, r) = (r' ^^^ f t l' k, l')) ∧
  (∀ (t : SBox) (k : Subkey), Function.Bijective fun lr : Half × Half => feistelRound t lr k) ∧
  feistelRound SBOX_STD (0xCC00CCFF#32, 0xF0AAF0AA#32) 0x1B02EFFC7072#48 = (0xF0AAF0AA#32, 0xEF4A6544#32)

/-- R155: the network with the subkeys reversed undoes the network, for every block, every sixteen subkeys and every
`SBOX`; on the way its pair after round n is the exchanged pair after round 16 - n of the first pass. -/
def Obligations.ReversedSubkeysInvertFeistel : Prop :=
  ∀ (t : SBox) (b : Block) (q q' : RoundKeys), (∀ i : Fin 16, q'[i.val] = q[15 - i.val]) →
    feistel t (feistel t b q) q' = b ∧
    ∀ (n : Nat) (h : n ≤ 16) (h' : 16 - n ≤ 16),
      pairAfter t (ipSplit (feistel t b q)) q' n h =
        ((pairAfter t (ipSplit b) q (16 - n) h').2, (pairAfter t (ipSplit b) q (16 - n) h').1)

/-- R172: `decrypt` undoes `encrypt` and `encrypt` undoes `decrypt`, for every key, every block and every `SBOX`; so each
is a bijection on blocks. -/
def Obligations.DecryptInvertsEncrypt : Prop :=
  ∀ (t : SBox) (key : Key),
    (∀ b : Block, decrypt t (encrypt t b key) key = b ∧ encrypt t (decrypt t b key) key = b) ∧
    Function.Bijective (fun b : Block => encrypt t b key) ∧ Function.Bijective (fun b : Block => decrypt t b key)

/-- The known vector, with the values that R182 lists for the standard boxes and for the replicated ones. That the
replicated table is S1 is the spec's conjecture, and the table contents are general knowledge (log 8). -/
def Obligations.KnownVectorPerSboxVariant : Prop :=
  encrypt SBOX_STD 0x0123456789ABCDEF#64 0x133457799BBCDFF1#64 = 0x85E813540F0AB405#64 ∧
  decrypt SBOX_STD 0x85E813540F0AB405#64 0x133457799BBCDFF1#64 = 0x0123456789ABCDEF#64 ∧
  encrypt (SBOX_REP S1) 0x0123456789ABCDEF#64 0x133457799BBCDFF1#64 = 0xBEB5557E09A7534E#64 ∧
  decrypt (SBOX_REP S1) 0xBEB5557E09A7534E#64 0x133457799BBCDFF1#64 = 0x0123456789ABCDEF#64

/-- V40: complementing block and key complements the result, for every `SBOX`, in both directions. -/
def Obligations.ComplementedOperandsComplementResult : Prop :=
  ∀ (t : SBox) (b : Block) (k : Key),
    encrypt t (~~~b) (~~~k) = ~~~(encrypt t b k) ∧ decrypt t (~~~b) (~~~k) = ~~~(decrypt t b k)

/-- R96, R157: which subkey a round reads: i when `DEC` = 0 and 17 - i when `DEC` = 1, always one of 1..16, without a
borrow in 5-bit arithmetic; over the rounds, the schedule forwards or backwards. -/
def Obligations.SubkeySelectionFollowsDirection : Prop :=
  ∀ r : Round,
    ksel false r = r ∧ roundNumber (ksel true r) = 17 - roundNumber r ∧
    1 ≤ roundNumber (ksel true r) ∧ roundNumber (ksel true r) ≤ 16 ∧
    BitVec.ofNat 5 (roundNumber (ksel true r)) = 17#5 - BitVec.ofNat 5 (roundNumber r) ∧
    ∀ (dec : Bool) (key : Key), (keyOrder dec key)[r.val] = (generateSubkeys key)[(ksel dec r).val]

/-! ### Commands over several edges -/

/-- R177: the life of a command. For every accepted command and every further `ps.length` ≤ 33 edges without `rst`, the
state after them is the row of R177's table, whatever the ports carry; the residue after FIN is R217's. -/
def Obligations.CommandLifeFollowsEdgeTable : Prop :=
  ∀ (s : State) (p : Pins) (ps : List Pins), s.ready → p.requests → noReset ps → ps.length ≤ 33 →
    ∃ t, runPins (p :: ps) s = .next t ∧ t.live = true ∧ t.sbox = s.sbox ∧
      t.afterEdges p.dec p.block_in p.key_in (ps.length + 1)

/-- R179: the two layers are equivalent. A command accepted at edge 0 with `rst` = 0 at edges 1..33 delivers the
function's value, for every `SBOX`, whatever the registers held and whatever the ports carry. -/
def Obligations.CommandDeliversFunctionValue : Prop :=
  ∀ (s : State) (p : Pins) (ps : List Pins), s.ready → p.requests → noReset ps → ps.length = 33 →
    ∃ t, runPins (p :: ps) s = .next t ∧ t.DONE = true ∧
      t.OUT = if p.dec then decrypt s.sbox p.block_in p.key_in else encrypt s.sbox p.block_in p.key_in

/-- R219: `LATENCY` = 34. Of the edges from the accepting one on, the 34th is the first after which `done` = 1, for both
directions, every block, every key and every `SBOX`. -/
def Obligations.DoneFirstRisesAtLatency : Prop :=
  LATENCY = 34 ∧
  ∀ (s : State) (p : Pins) (ps : List Pins), s.ready → p.requests → noReset ps → ps.length = 33 →
    ∀ n, 1 ≤ n → n ≤ 34 →
      ∃ t, runPins ((p :: ps).take n) s = .next t ∧ (done t = true ↔ n = LATENCY) ∧
        (n = LATENCY → blockOut t = commandResult s.sbox p.dec p.block_in p.key_in)

/-- R101: after an accepted `ENC` or `DEC` line, `WAIT` (NOP repeated until `done` = 1) is exactly 33 NOP lines, and the
pseudo-instruction delivers the function's value on `block_out`. Issued while busy, `ps.length + 1` edges into an earlier
command, the line is ignored and `WAIT` ends when that command's result is there, at the result of that command; `WAIT`
alone does the same. Where the ignored line is at the FIN edge itself, `done` is 1 when `WAIT` begins, and that it is then
one NOP line is the model's choice (log 16). With no command to wait for `WAIT` never ends, and a `WAIT` that ends at all
does so within 33 lines. That the lines drive the unexamined inputs with 0 is the model's choice (log 12). -/
def Obligations.WaitTakesThirtyThreeNops : Prop :=
  (∀ (s : State) (b : Block) (k : Key), s.ready →
    (∃ t u, runLines [.enc b k] s = .next t ∧ (∀ fuel, 33 ≤ fuel → waitDone fuel t = some (33, u)) ∧
      runPseudo (.encrypt b k) s = some (.enc b k :: List.replicate 33 .nop, u) ∧
      blockOut u = encrypt s.sbox b k) ∧
    (∃ t u, runLines [.dec b k] s = .next t ∧ (∀ fuel, 33 ≤ fuel → waitDone fuel t = some (33, u)) ∧
      runPseudo (.decrypt b k) s = some (.dec b k :: List.replicate 33 .nop, u) ∧
      blockOut u = decrypt s.sbox b k)) ∧
  (∀ (s : State) (p : Pins) (ps : List Pins) (b : Block) (k : Key),
    s.ready → p.requests → noReset ps → ps.length ≤ 32 →
    ∃ t u, runPins (p :: ps) s = .next t ∧ runPseudo .wait t = some (List.replicate (33 - ps.length) .nop, u) ∧
      blockOut u = commandResult s.sbox p.dec p.block_in p.key_in ∧
      (∃ v, runPseudo (.encrypt b k) t = some (.enc b k :: List.replicate (max 1 (32 - ps.length)) .nop, v) ∧
        blockOut v = commandResult s.sbox p.dec p.block_in p.key_in) ∧
      (∃ v, runPseudo (.decrypt b k) t = some (.dec b k :: List.replicate (max 1 (32 - ps.length)) .nop, v) ∧
        blockOut v = commandResult s.sbox p.dec p.block_in p.key_in)) ∧
  (∀ s : State, s.ready → s.DONE = false → ∀ fuel, waitDone fuel s = none) ∧
  (∀ (s : State) (fuel : Nat) (r : Nat × State), waitDone fuel s = some r → r.1 ≤ 33 ∧ waitDone WAIT_LIMIT s = some r)

/-- A request accepted in IDLE starts carrying the command whose operands the ports show (R129 and R160 at their first
state). -/
def Obligations.AcceptBeginsCarriedCommand : Prop :=
  ∀ s : State, s.ready → s.pins.requests →
    ∃ t, step s = .next t ∧ t.carries s.pins.dec s.pins.block_in s.pins.key_in ∧ t.PHASE = .ks ∧ t.I = 1#5

/-- R129, R160: every step without `rst` keeps what the registers hold of the command in progress (the halves, the
subkeys written so far, the round pair, and at the end the result), until a new request is accepted. -/
def Obligations.EveryStepKeepsCarriedCommand : Prop :=
  ∀ (s : State) (dec : Bool) (block : Block) (key : Key),
    s.live = true → s.pins.rst = false → s.carries dec block key → (s.PHASE = .idle → s.pins.start = false) →
    ∃ t, step s = .next t ∧ t.carries dec block key

/-- R36, R39: every step, from any state that meets it, keeps the invariant: the sequencing state is one of the 34 legal
pairs, and `busy` and `done` are not both 1. -/
def Obligations.EveryStepKeepsInvariant : Prop :=
  ∀ s t : State, s.Inv → step s = .next t → t.Inv

/-- Every step keeps this: a specified state is the reset state's registers or carries a command. So whenever `DONE` = 1,
`OUT` is `encrypt` or `decrypt` of some block and key, the one that `DEC` says, and the residue is that command's
(R129, R160, R217). -/
def Obligations.EveryStepKeepsExplanation : Prop :=
  (∀ s t : State, s.explained → step s = .next t → t.explained) ∧
  (∀ s : State, s.explained → s.live = true → s.DONE = true →
    ∃ block key, s.OUT = (if s.DEC then decrypt s.sbox block key else encrypt s.sbox block key) ∧
      s.K = generateSubkeys key)

/-- The reset state meets the invariants, is safe and is ready; its registers are R55's. That it carries a table at all,
and that this is `SBOX_STD`, which R7 names as the default, is the model's choice (log 3), and so is the mark `live`, by
which it counts as safe and ready (log 4). -/
def Obligations.ResetMeetsInvariants : Prop :=
  State.reset.Inv ∧ State.reset.explained ∧ State.reset.Safe ∧ State.reset.ready ∧
  State.reset.toRegisters = Registers.zero ∧ State.reset.sbox = SBOX_STD

/-- R185 (b): every row completes. A well-formed instruction has a next state in every state; from every specified state
with a legal sequencing state the step completes and stays there, for every input; and nothing ever faults. -/
def Obligations.SafeStatesAlwaysStep : Prop :=
  (∀ (i : Instr) (s : State), i.wellFormed = true → ∃ t, exec i s = .next t) ∧
  (∀ (s : State) (p : Pins), s.Safe → ∃ t, step (s.setPins p) = .next t ∧ t.Safe) ∧
  (∀ (s : State) (r : Fault), step s ≠ .fault r)

/-- R174, R178: while the core is busy and `rst` = 0, the levels of `start`, `dec`, `block_in` and `key_in` have no
effect on any register. -/
def Obligations.InputsIgnoredWhileBusy : Prop :=
  ∀ (s t : State) (p : Pins), s.PHASE ≠ .idle → s.pins.rst = false → p.rst = false → step s = .next t →
    ∃ t', step (s.setPins p) = .next t' ∧ t'.toRegisters = t.toRegisters ∧ t'.sbox = t.sbox ∧ t'.live = t.live

/-- R173: the value a command delivers depends only on `dec`, `block_in`, `key_in` at its ACCEPT and on the
configuration: not on the registers before, not on what the ports carry afterwards, not on which instance runs it. -/
def Obligations.ResultDependsOnlyOnOperands : Prop :=
  ∀ (s s' : State) (p p' : Pins) (ps ps' : List Pins),
    s.ready → s'.ready → s.sbox = s'.sbox → p.requests → p'.requests →
    p.dec = p'.dec → p.block_in = p'.block_in → p.key_in = p'.key_in →
    noReset ps → noReset ps' → ps.length = 33 → ps'.length = 33 →
    ∃ t t', runPins (p :: ps) s = .next t ∧ runPins (p' :: ps') s' = .next t' ∧
      done t = true ∧ done t' = true ∧ blockOut t = blockOut t'

/-- R207: an edge with `rst` = 1 at any of the edges 1..33 abandons the command: every register is at its reset value,
and a request at the following edge is accepted. -/
def Obligations.ResetAbandonsCommand : Prop :=
  ∀ (s : State) (p r : Pins) (ps : List Pins), s.ready → p.requests → noReset ps → ps.length ≤ 32 → r.rst = true →
    ∃ t, runPins (p :: ps ++ [r]) s = .next t ∧ t.toRegisters = Registers.zero ∧ done t = false ∧
      blockOut t = 0#64 ∧
      ∀ q : Pins, q.requests → ∃ u, step (t.setPins q) = .next u ∧ u.carries q.dec q.block_in q.key_in

/-- R216: `start` held at 1 gives back-to-back commands: the second is accepted at edge 34 with what the ports carry
then, `done` is 1 for one clock period, and `block_out` keeps the first result until edge 67. -/
def Obligations.HeldStartRunsBackToBack : Prop :=
  ∀ (s : State) (ps : List Pins) (p0 p34 : Pins), s.ready → ps.length = 68 → (∀ p ∈ ps, p.requests) →
    ps[0]? = some p0 → ps[34]? = some p34 →
    ∀ n, 1 ≤ n → n ≤ 68 →
      ∃ t, runPins (ps.take n) s = .next t ∧ (done t = true ↔ n = 34 ∨ n = 68) ∧
        (34 ≤ n → n ≤ 67 → blockOut t = commandResult s.sbox p0.dec p0.block_in p0.key_in) ∧
        (n = 68 → blockOut t = commandResult s.sbox p34.dec p34.block_in p34.key_in)

/-- R39: the output functions, that they depend on registers only, that `busy` and `done` are not both 1 in a state that
meets the invariant, and that both are 0 after reset. -/
def Obligations.OutputsAreFunctionsOfRegisters : Prop :=
  (∀ s : State, (busy s = true ↔ s.PHASE ≠ .idle) ∧ done s = s.DONE ∧ blockOut s = s.OUT) ∧
  (∀ s s' : State, s.toRegisters = s'.toRegisters → busy s = busy s' ∧ done s = done s' ∧ blockOut s = blockOut s') ∧
  (∀ s : State, s.live = true → s.Inv → ¬(busy s = true ∧ done s = true)) ∧
  (∀ s : State, busy s.resetRegisters = false ∧ done s.resetRegisters = false)

/-- R214: through any number of NOP edges every register keeps its value; the next ACCEPT clears `DONE` at once and keeps
`OUT`. -/
def Obligations.ResultIsKeptThroughNops : Prop :=
  ∀ (s : State) (ps : List Pins), s.ready → (∀ p ∈ ps, p.rst = false ∧ p.start = false) →
    ∃ t, runPins ps s = .next t ∧ t.toRegisters = s.toRegisters ∧ t.sbox = s.sbox ∧ t.ready ∧
      ∀ q : Pins, q.requests → ∃ u, step (t.setPins q) = .next u ∧ done u = false ∧ blockOut u = blockOut s

/-- R175: from the ACCEPT edge to the FIN edge `busy` = 1, `done` = 0 and `block_out` is the previous result; from the FIN
edge on, through NOP edges, `busy` = 0, `done` = 1 and `block_out` is the result. -/
def Obligations.OutputsDuringAndAfterCommand : Prop :=
  ∀ (s : State) (p : Pins) (ps nops : List Pins), s.ready → p.requests → noReset ps →
    (∀ q ∈ nops, q.rst = false ∧ q.start = false) →
    (ps.length ≤ 32 → ∃ t, runPins (p :: ps) s = .next t ∧ busy t = true ∧ done t = false ∧
      blockOut t = blockOut s) ∧
    (ps.length = 33 → ∃ t, runPins (p :: ps ++ nops) s = .next t ∧ busy t = false ∧ done t = true ∧
      blockOut t = commandResult s.sbox p.dec p.block_in p.key_in)

/-- R101: `SELFTEST` reports the block, its encryption and, decrypted again, the block, on every instance that is ready.
Its lines drive the unexamined inputs with 0, which is the model's choice (log 12). -/
def Obligations.SelftestReportsRoundTrip : Prop :=
  ∀ (s : State) (block : Block) (key : Key), s.ready →
    selftest s block key = some (block, encrypt s.sbox block key, block)

/-! ### Instances and configuration -/

/-- R198, R199: what an instance does depends on that instance alone; one whose clock is held keeps its state exactly. -/
def Obligations.InstancesAreIndependent : Prop :=
  (∀ (n : Nat) (sys sys' : System n) (ck ck' : Vector Bool n) (k : Fin n),
    sys[k.val] = sys'[k.val] → ck[k.val] = ck'[k.val] → (sys.edge ck)[k.val] = (sys'.edge ck')[k.val]) ∧
  (∀ (n : Nat) (sys : System n) (ck : Vector Bool n) (k : Fin n),
    (ck[k.val] = true → (sys.edge ck)[k.val] = step sys[k.val]) ∧
    (ck[k.val] = false → (sys.edge ck)[k.val] = .next sys[k.val]))

/-- R186, R187, R188: a raw configuration loads exactly when it has no defect, what loads is that configuration and no
other, and a defective one yields no tables. Each defect has its name of R186's table, exactly when the table's words
hold. Typed tables have no defect. That a defective configuration is answered with the list of all its defects, table by
table, is the model's choice (log 13). -/
def Obligations.ConfigurationLoadsExactlyWithoutDefects : Prop :=
  (∀ c : RawConfig, (∃ t, c.load = .ok t) ↔ c.defects = []) ∧
  (∀ (c : RawConfig) (t : Tables), c.load = .ok t → t.raw = c) ∧
  (∀ (c : RawConfig) (ds : List CfgDefect), c.load = .error ds → ds = c.defects ∧ ds ≠ []) ∧
  (∀ t : Tables, t.raw.load = .ok t) ∧
  (∀ c : RawConfig,
    (.permRange ∈ c.defects ↔
      ∃ lw ∈ [(c.ip, 64), (c.fp, 64), (c.e, 32), (c.p, 32), (c.pc1, 64), (c.pc2, 56)],
        ∃ n ∈ lw.1, n < 1 ∨ lw.2 < n) ∧
    (.permLength ∈ c.defects ↔
      ∃ ln ∈ [(c.ip, 64), (c.fp, 64), (c.e, 48), (c.p, 32), (c.pc1, 56), (c.pc2, 48)], ln.1.length ≠ ln.2) ∧
    (.sboxShape ∈ c.defects ↔
      ¬(c.sbox.length = 8 ∧ ∀ b ∈ c.sbox, b.length = 4 ∧ ∀ r ∈ b, r.length = 16)) ∧
    (.sboxValue ∈ c.defects ↔ ∃ b ∈ c.sbox, ∃ r ∈ b, ∃ v ∈ r, 15 < v) ∧
    (.shiftRange ∈ c.defects ↔ c.shift.length ≠ 16 ∨ ∃ n ∈ c.shift, 27 < n))
end

