-- ==== Sys2Proof/Laws/Encoding.lean ====
section
/-! SUPPORT. The step word and its fields determine each other (R90), and decoding goes through the fields. -/

namespace Sys2Proof

/-- One bit of a packed step word, by the field it lies in (R90). -/
theorem StepFields.getLsbD_pack (f : StepFields) (n : Nat) :
    f.pack.getLsbD n =
      if n < 64 then f.key.getLsbD n
      else if n < 128 then f.block.getLsbD (n - 64)
      else if n < 129 then f.dec
      else if n < 130 then f.start
      else if n < 135 then f.i.getLsbD (n - 130)
      else if n < 137 then f.phase.getLsbD (n - 135)
      else if n < 138 then f.rst else false := by
  have hp : f.pack.getLsbD n = BitVec.getLsbD (w := 1 + 2 + 5 + 1 + 1 + 64 + 64)
      (BitVec.ofBool f.rst ++ f.phase ++ f.i ++ BitVec.ofBool f.start ++ BitVec.ofBool f.dec ++ f.block ++ f.key) n := rfl
  rw [hp]
  simp only [BitVec.getLsbD_append]
  by_cases h1 : n < 64
  · simp [h1]
  by_cases h2 : n < 128
  · simp [h1, h2, show n - 64 < 64 by omega]
  by_cases h3 : n < 129
  · obtain rfl : n = 128 := by omega
    simp
  by_cases h4 : n < 130
  · obtain rfl : n = 129 := by omega
    simp
  by_cases h5 : n < 135
  · simp [h1, h2, h3, h4, h5, show ¬ n - 64 < 64 by omega, show ¬ n - 64 - 64 < 1 by omega,
      show ¬ n - 64 - 64 - 1 < 1 by omega, show n - 64 - 64 - 1 - 1 = n - 130 by omega, show n - 130 < 5 by omega]
  by_cases h6 : n < 137
  · simp [h1, h2, h3, h4, h5, h6, show ¬ n - 64 < 64 by omega, show ¬ n - 64 - 64 < 1 by omega,
      show ¬ n - 64 - 64 - 1 < 1 by omega, show n - 64 - 64 - 1 - 1 = n - 130 by omega, show ¬ n - 130 < 5 by omega,
      show n - 130 - 5 = n - 135 by omega, show n - 135 < 2 by omega]
  by_cases h7 : n < 138
  · obtain rfl : n = 137 := by omega
    simp
  · simp [h1, h2, h3, h4, h5, h6, h7, show ¬ n - 64 < 64 by omega, show ¬ n - 64 - 64 < 1 by omega,
      show ¬ n - 64 - 64 - 1 < 1 by omega, show n - 64 - 64 - 1 - 1 = n - 130 by omega, show ¬ n - 130 < 5 by omega,
      show n - 130 - 5 = n - 135 by omega, show ¬ n - 135 < 2 by omega]
    omega

/-- Reading the fields of a packed step word gives the fields. -/
theorem StepFields.unpack_pack (f : StepFields) : StepFields.unpack f.pack = f := by
  have hphase : f.pack.extractLsb' 135 2 = f.phase := by
    apply BitVec.eq_of_getLsbD_eq
    intro n hn
    rw [BitVec.getLsbD_extractLsb', StepFields.getLsbD_pack]
    simp [hn, show ¬ 135 + n < 64 by omega, show ¬ 135 + n < 128 by omega, show ¬ 135 + n < 129 by omega,
      show ¬ 135 + n < 130 by omega, show ¬ 135 + n < 135 by omega, show 135 + n < 137 by omega]
  have hi : f.pack.extractLsb' 130 5 = f.i := by
    apply BitVec.eq_of_getLsbD_eq
    intro n hn
    rw [BitVec.getLsbD_extractLsb', StepFields.getLsbD_pack]
    simp [hn, show ¬ 130 + n < 64 by omega, show ¬ 130 + n < 128 by omega, show ¬ 130 + n < 129 by omega,
      show ¬ 130 + n < 130 by omega, show 130 + n < 135 by omega]
  have hblock : f.pack.extractLsb' 64 64 = f.block := by
    apply BitVec.eq_of_getLsbD_eq
    intro n hn
    rw [BitVec.getLsbD_extractLsb', StepFields.getLsbD_pack]
    simp [hn, show ¬ 64 + n < 64 by omega, show 64 + n < 128 by omega]
  have hkey : f.pack.extractLsb' 0 64 = f.key := by
    apply BitVec.eq_of_getLsbD_eq
    intro n hn
    rw [BitVec.getLsbD_extractLsb', StepFields.getLsbD_pack]
    simp [hn]
  have hrst : f.pack.getLsbD 137 = f.rst := StepFields.getLsbD_pack f 137
  have hstart : f.pack.getLsbD 129 = f.start := StepFields.getLsbD_pack f 129
  have hdec : f.pack.getLsbD 128 = f.dec := StepFields.getLsbD_pack f 128
  simp only [StepFields.unpack, hphase, hi, hblock, hkey, hrst, hstart, hdec]

/-- Packing the fields of a step word gives the step word: `unpack` drops no bit. -/
theorem StepFields.pack_unpack (w : StepWord) : (StepFields.unpack w).pack = w := by
  apply BitVec.eq_of_getLsbD_eq
  intro n hn
  rw [StepFields.getLsbD_pack]
  unfold StepFields.unpack
  by_cases h1 : n < 64
  · rw [if_pos h1, BitVec.getLsbD_extractLsb', Nat.zero_add, decide_eq_true h1, Bool.true_and]
  rw [if_neg h1]
  by_cases h2 : n < 128
  · rw [if_pos h2, BitVec.getLsbD_extractLsb', show 64 + (n - 64) = n by omega, decide_eq_true (show n - 64 < 64 by omega), Bool.true_and]
  rw [if_neg h2]
  by_cases h3 : n < 129
  · obtain rfl : n = 128 := by omega
    rfl
  rw [if_neg h3]
  by_cases h4 : n < 130
  · obtain rfl : n = 129 := by omega
    rfl
  rw [if_neg h4]
  by_cases h5 : n < 135
  · rw [if_pos h5, BitVec.getLsbD_extractLsb', show 130 + (n - 130) = n by omega, decide_eq_true (show n - 130 < 5 by omega), Bool.true_and]
  rw [if_neg h5]
  by_cases h6 : n < 137
  · rw [if_pos h6, BitVec.getLsbD_extractLsb', show 135 + (n - 135) = n by omega, decide_eq_true (show n - 135 < 2 by omega), Bool.true_and]
  obtain rfl : n = 137 := by omega
  rfl

@[simp] theorem Phase.ofCode_code (p : Phase) : Phase.ofCode p.code = p := by cases p <;> decide
@[simp] theorem Phase.code_ofCode (c : BitVec 2) : (Phase.ofCode c).code = c := by
  revert c; decide

/-- Masking a packed step word masks its fields. -/
theorem StepFields.pack_and (f g : StepFields) :
    f.pack &&& g.pack =
      StepFields.pack
        { rst := f.rst && g.rst, phase := f.phase &&& g.phase, i := f.i &&& g.i, start := f.start && g.start,
          dec := f.dec && g.dec, block := f.block &&& g.block, key := f.key &&& g.key } := by
  apply BitVec.eq_of_getLsbD_eq
  intro n _
  rw [BitVec.getLsbD_and, getLsbD_pack, getLsbD_pack, getLsbD_pack]
  split_ifs <;> simp

/-- Equal step words have equal fields. -/
theorem StepFields.pack_inj {f g : StepFields} : f.pack = g.pack ↔ f = g :=
  ⟨fun h => by rw [← unpack_pack f, h, unpack_pack], fun h => by rw [h]⟩

/-- Decoding a packed step word reads the row off its fields. -/
theorem decode_pack (f : StepFields) : decode f.pack = f.instr := by rw [decode, StepFields.unpack_pack]

/-- A code names one phase. -/
theorem Phase.ofCode_eq_iff (c : BitVec 2) (p : Phase) : Phase.ofCode c = p ↔ c = p.code := by
  constructor
  · rintro rfl; simp
  · rintro rfl; simp

end Sys2Proof
end

