-- ==== Sys2Proof/Laws/State.lean ====
section
/-! SUPPORT. What each named update of `State` does to each field, so that no later proof unfolds a record update. -/

namespace Sys2Proof.Machine

@[simp] theorem State.setSeq_PHASE (s : State) (ph : Phase) (i : BitVec 5) : (s.setSeq ph i).PHASE = ph := rfl
@[simp] theorem State.setSeq_I (s : State) (ph : Phase) (i : BitVec 5) : (s.setSeq ph i).I = i := rfl
@[simp] theorem State.setSeq_DEC (s : State) (ph : Phase) (i : BitVec 5) : (s.setSeq ph i).DEC = s.DEC := rfl
@[simp] theorem State.setSeq_C (s : State) (ph : Phase) (i : BitVec 5) : (s.setSeq ph i).C = s.C := rfl
@[simp] theorem State.setSeq_D (s : State) (ph : Phase) (i : BitVec 5) : (s.setSeq ph i).D = s.D := rfl
@[simp] theorem State.setSeq_K (s : State) (ph : Phase) (i : BitVec 5) : (s.setSeq ph i).K = s.K := rfl
@[simp] theorem State.setSeq_L (s : State) (ph : Phase) (i : BitVec 5) : (s.setSeq ph i).L = s.L := rfl
@[simp] theorem State.setSeq_R (s : State) (ph : Phase) (i : BitVec 5) : (s.setSeq ph i).R = s.R := rfl
@[simp] theorem State.setSeq_OUT (s : State) (ph : Phase) (i : BitVec 5) : (s.setSeq ph i).OUT = s.OUT := rfl
@[simp] theorem State.setSeq_DONE (s : State) (ph : Phase) (i : BitVec 5) : (s.setSeq ph i).DONE = s.DONE := rfl
@[simp] theorem State.setSeq_sbox (s : State) (ph : Phase) (i : BitVec 5) : (s.setSeq ph i).sbox = s.sbox := rfl
@[simp] theorem State.setSeq_pins (s : State) (ph : Phase) (i : BitVec 5) : (s.setSeq ph i).pins = s.pins := rfl
@[simp] theorem State.setSeq_drive (s : State) (ph : Phase) (i : BitVec 5) : (s.setSeq ph i).drive = s.drive := rfl
@[simp] theorem State.setSeq_edge (s : State) (ph : Phase) (i : BitVec 5) : (s.setSeq ph i).edge = s.edge := rfl
@[simp] theorem State.setSeq_live (s : State) (ph : Phase) (i : BitVec 5) : (s.setSeq ph i).live = s.live := rfl

@[simp] theorem State.setDec_PHASE (s : State) (d : Bool) : (s.setDec d).PHASE = s.PHASE := rfl
@[simp] theorem State.setDec_I (s : State) (d : Bool) : (s.setDec d).I = s.I := rfl
@[simp] theorem State.setDec_DEC (s : State) (d : Bool) : (s.setDec d).DEC = d := rfl
@[simp] theorem State.setDec_C (s : State) (d : Bool) : (s.setDec d).C = s.C := rfl
@[simp] theorem State.setDec_D (s : State) (d : Bool) : (s.setDec d).D = s.D := rfl
@[simp] theorem State.setDec_K (s : State) (d : Bool) : (s.setDec d).K = s.K := rfl
@[simp] theorem State.setDec_L (s : State) (d : Bool) : (s.setDec d).L = s.L := rfl
@[simp] theorem State.setDec_R (s : State) (d : Bool) : (s.setDec d).R = s.R := rfl
@[simp] theorem State.setDec_OUT (s : State) (d : Bool) : (s.setDec d).OUT = s.OUT := rfl
@[simp] theorem State.setDec_DONE (s : State) (d : Bool) : (s.setDec d).DONE = s.DONE := rfl
@[simp] theorem State.setDec_sbox (s : State) (d : Bool) : (s.setDec d).sbox = s.sbox := rfl
@[simp] theorem State.setDec_pins (s : State) (d : Bool) : (s.setDec d).pins = s.pins := rfl
@[simp] theorem State.setDec_drive (s : State) (d : Bool) : (s.setDec d).drive = s.drive := rfl
@[simp] theorem State.setDec_edge (s : State) (d : Bool) : (s.setDec d).edge = s.edge := rfl
@[simp] theorem State.setDec_live (s : State) (d : Bool) : (s.setDec d).live = s.live := rfl

@[simp] theorem State.setKeyHalves_PHASE (s : State) (c d : KeyHalf) : (s.setKeyHalves c d).PHASE = s.PHASE := rfl
@[simp] theorem State.setKeyHalves_I (s : State) (c d : KeyHalf) : (s.setKeyHalves c d).I = s.I := rfl
@[simp] theorem State.setKeyHalves_DEC (s : State) (c d : KeyHalf) : (s.setKeyHalves c d).DEC = s.DEC := rfl
@[simp] theorem State.setKeyHalves_C (s : State) (c d : KeyHalf) : (s.setKeyHalves c d).C = c := rfl
@[simp] theorem State.setKeyHalves_D (s : State) (c d : KeyHalf) : (s.setKeyHalves c d).D = d := rfl
@[simp] theorem State.setKeyHalves_K (s : State) (c d : KeyHalf) : (s.setKeyHalves c d).K = s.K := rfl
@[simp] theorem State.setKeyHalves_L (s : State) (c d : KeyHalf) : (s.setKeyHalves c d).L = s.L := rfl
@[simp] theorem State.setKeyHalves_R (s : State) (c d : KeyHalf) : (s.setKeyHalves c d).R = s.R := rfl
@[simp] theorem State.setKeyHalves_OUT (s : State) (c d : KeyHalf) : (s.setKeyHalves c d).OUT = s.OUT := rfl
@[simp] theorem State.setKeyHalves_DONE (s : State) (c d : KeyHalf) : (s.setKeyHalves c d).DONE = s.DONE := rfl
@[simp] theorem State.setKeyHalves_sbox (s : State) (c d : KeyHalf) : (s.setKeyHalves c d).sbox = s.sbox := rfl
@[simp] theorem State.setKeyHalves_pins (s : State) (c d : KeyHalf) : (s.setKeyHalves c d).pins = s.pins := rfl
@[simp] theorem State.setKeyHalves_drive (s : State) (c d : KeyHalf) : (s.setKeyHalves c d).drive = s.drive := rfl
@[simp] theorem State.setKeyHalves_edge (s : State) (c d : KeyHalf) : (s.setKeyHalves c d).edge = s.edge := rfl
@[simp] theorem State.setKeyHalves_live (s : State) (c d : KeyHalf) : (s.setKeyHalves c d).live = s.live := rfl

@[simp] theorem State.setHalves_PHASE (s : State) (l r : Half) : (s.setHalves l r).PHASE = s.PHASE := rfl
@[simp] theorem State.setHalves_I (s : State) (l r : Half) : (s.setHalves l r).I = s.I := rfl
@[simp] theorem State.setHalves_DEC (s : State) (l r : Half) : (s.setHalves l r).DEC = s.DEC := rfl
@[simp] theorem State.setHalves_C (s : State) (l r : Half) : (s.setHalves l r).C = s.C := rfl
@[simp] theorem State.setHalves_D (s : State) (l r : Half) : (s.setHalves l r).D = s.D := rfl
@[simp] theorem State.setHalves_K (s : State) (l r : Half) : (s.setHalves l r).K = s.K := rfl
@[simp] theorem State.setHalves_L (s : State) (l r : Half) : (s.setHalves l r).L = l := rfl
@[simp] theorem State.setHalves_R (s : State) (l r : Half) : (s.setHalves l r).R = r := rfl
@[simp] theorem State.setHalves_OUT (s : State) (l r : Half) : (s.setHalves l r).OUT = s.OUT := rfl
@[simp] theorem State.setHalves_DONE (s : State) (l r : Half) : (s.setHalves l r).DONE = s.DONE := rfl
@[simp] theorem State.setHalves_sbox (s : State) (l r : Half) : (s.setHalves l r).sbox = s.sbox := rfl
@[simp] theorem State.setHalves_pins (s : State) (l r : Half) : (s.setHalves l r).pins = s.pins := rfl
@[simp] theorem State.setHalves_drive (s : State) (l r : Half) : (s.setHalves l r).drive = s.drive := rfl
@[simp] theorem State.setHalves_edge (s : State) (l r : Half) : (s.setHalves l r).edge = s.edge := rfl
@[simp] theorem State.setHalves_live (s : State) (l r : Half) : (s.setHalves l r).live = s.live := rfl

@[simp] theorem State.setOut_PHASE (s : State) (v : Block) : (s.setOut v).PHASE = s.PHASE := rfl
@[simp] theorem State.setOut_I (s : State) (v : Block) : (s.setOut v).I = s.I := rfl
@[simp] theorem State.setOut_DEC (s : State) (v : Block) : (s.setOut v).DEC = s.DEC := rfl
@[simp] theorem State.setOut_C (s : State) (v : Block) : (s.setOut v).C = s.C := rfl
@[simp] theorem State.setOut_D (s : State) (v : Block) : (s.setOut v).D = s.D := rfl
@[simp] theorem State.setOut_K (s : State) (v : Block) : (s.setOut v).K = s.K := rfl
@[simp] theorem State.setOut_L (s : State) (v : Block) : (s.setOut v).L = s.L := rfl
@[simp] theorem State.setOut_R (s : State) (v : Block) : (s.setOut v).R = s.R := rfl
@[simp] theorem State.setOut_OUT (s : State) (v : Block) : (s.setOut v).OUT = v := rfl
@[simp] theorem State.setOut_DONE (s : State) (v : Block) : (s.setOut v).DONE = s.DONE := rfl
@[simp] theorem State.setOut_sbox (s : State) (v : Block) : (s.setOut v).sbox = s.sbox := rfl
@[simp] theorem State.setOut_pins (s : State) (v : Block) : (s.setOut v).pins = s.pins := rfl
@[simp] theorem State.setOut_drive (s : State) (v : Block) : (s.setOut v).drive = s.drive := rfl
@[simp] theorem State.setOut_edge (s : State) (v : Block) : (s.setOut v).edge = s.edge := rfl
@[simp] theorem State.setOut_live (s : State) (v : Block) : (s.setOut v).live = s.live := rfl

@[simp] theorem State.writeK_PHASE (s : State) (i : Round) (v : Subkey) : (s.writeK i v).PHASE = s.PHASE := rfl
@[simp] theorem State.writeK_I (s : State) (i : Round) (v : Subkey) : (s.writeK i v).I = s.I := rfl
@[simp] theorem State.writeK_DEC (s : State) (i : Round) (v : Subkey) : (s.writeK i v).DEC = s.DEC := rfl
@[simp] theorem State.writeK_C (s : State) (i : Round) (v : Subkey) : (s.writeK i v).C = s.C := rfl
@[simp] theorem State.writeK_D (s : State) (i : Round) (v : Subkey) : (s.writeK i v).D = s.D := rfl
@[simp] theorem State.writeK_K (s : State) (i : Round) (v : Subkey) : (s.writeK i v).K = s.K.set i.val v i.isLt := rfl
@[simp] theorem State.writeK_L (s : State) (i : Round) (v : Subkey) : (s.writeK i v).L = s.L := rfl
@[simp] theorem State.writeK_R (s : State) (i : Round) (v : Subkey) : (s.writeK i v).R = s.R := rfl
@[simp] theorem State.writeK_OUT (s : State) (i : Round) (v : Subkey) : (s.writeK i v).OUT = s.OUT := rfl
@[simp] theorem State.writeK_DONE (s : State) (i : Round) (v : Subkey) : (s.writeK i v).DONE = s.DONE := rfl
@[simp] theorem State.writeK_sbox (s : State) (i : Round) (v : Subkey) : (s.writeK i v).sbox = s.sbox := rfl
@[simp] theorem State.writeK_pins (s : State) (i : Round) (v : Subkey) : (s.writeK i v).pins = s.pins := rfl
@[simp] theorem State.writeK_drive (s : State) (i : Round) (v : Subkey) : (s.writeK i v).drive = s.drive := rfl
@[simp] theorem State.writeK_edge (s : State) (i : Round) (v : Subkey) : (s.writeK i v).edge = s.edge := rfl
@[simp] theorem State.writeK_live (s : State) (i : Round) (v : Subkey) : (s.writeK i v).live = s.live := rfl

@[simp] theorem State.raiseDone_PHASE (s : State) : (s.raiseDone).PHASE = s.PHASE := rfl
@[simp] theorem State.raiseDone_I (s : State) : (s.raiseDone).I = s.I := rfl
@[simp] theorem State.raiseDone_DEC (s : State) : (s.raiseDone).DEC = s.DEC := rfl
@[simp] theorem State.raiseDone_C (s : State) : (s.raiseDone).C = s.C := rfl
@[simp] theorem State.raiseDone_D (s : State) : (s.raiseDone).D = s.D := rfl
@[simp] theorem State.raiseDone_K (s : State) : (s.raiseDone).K = s.K := rfl
@[simp] theorem State.raiseDone_L (s : State) : (s.raiseDone).L = s.L := rfl
@[simp] theorem State.raiseDone_R (s : State) : (s.raiseDone).R = s.R := rfl
@[simp] theorem State.raiseDone_OUT (s : State) : (s.raiseDone).OUT = s.OUT := rfl
@[simp] theorem State.raiseDone_DONE (s : State) : (s.raiseDone).DONE = true := rfl
@[simp] theorem State.raiseDone_sbox (s : State) : (s.raiseDone).sbox = s.sbox := rfl
@[simp] theorem State.raiseDone_pins (s : State) : (s.raiseDone).pins = s.pins := rfl
@[simp] theorem State.raiseDone_drive (s : State) : (s.raiseDone).drive = s.drive := rfl
@[simp] theorem State.raiseDone_edge (s : State) : (s.raiseDone).edge = s.edge := rfl
@[simp] theorem State.raiseDone_live (s : State) : (s.raiseDone).live = s.live := rfl

@[simp] theorem State.clearDone_PHASE (s : State) : (s.clearDone).PHASE = s.PHASE := rfl
@[simp] theorem State.clearDone_I (s : State) : (s.clearDone).I = s.I := rfl
@[simp] theorem State.clearDone_DEC (s : State) : (s.clearDone).DEC = s.DEC := rfl
@[simp] theorem State.clearDone_C (s : State) : (s.clearDone).C = s.C := rfl
@[simp] theorem State.clearDone_D (s : State) : (s.clearDone).D = s.D := rfl
@[simp] theorem State.clearDone_K (s : State) : (s.clearDone).K = s.K := rfl
@[simp] theorem State.clearDone_L (s : State) : (s.clearDone).L = s.L := rfl
@[simp] theorem State.clearDone_R (s : State) : (s.clearDone).R = s.R := rfl
@[simp] theorem State.clearDone_OUT (s : State) : (s.clearDone).OUT = s.OUT := rfl
@[simp] theorem State.clearDone_DONE (s : State) : (s.clearDone).DONE = false := rfl
@[simp] theorem State.clearDone_sbox (s : State) : (s.clearDone).sbox = s.sbox := rfl
@[simp] theorem State.clearDone_pins (s : State) : (s.clearDone).pins = s.pins := rfl
@[simp] theorem State.clearDone_drive (s : State) : (s.clearDone).drive = s.drive := rfl
@[simp] theorem State.clearDone_edge (s : State) : (s.clearDone).edge = s.edge := rfl
@[simp] theorem State.clearDone_live (s : State) : (s.clearDone).live = s.live := rfl

@[simp] theorem State.setPins_PHASE (s : State) (p : Pins) : (s.setPins p).PHASE = s.PHASE := rfl
@[simp] theorem State.setPins_I (s : State) (p : Pins) : (s.setPins p).I = s.I := rfl
@[simp] theorem State.setPins_DEC (s : State) (p : Pins) : (s.setPins p).DEC = s.DEC := rfl
@[simp] theorem State.setPins_C (s : State) (p : Pins) : (s.setPins p).C = s.C := rfl
@[simp] theorem State.setPins_D (s : State) (p : Pins) : (s.setPins p).D = s.D := rfl
@[simp] theorem State.setPins_K (s : State) (p : Pins) : (s.setPins p).K = s.K := rfl
@[simp] theorem State.setPins_L (s : State) (p : Pins) : (s.setPins p).L = s.L := rfl
@[simp] theorem State.setPins_R (s : State) (p : Pins) : (s.setPins p).R = s.R := rfl
@[simp] theorem State.setPins_OUT (s : State) (p : Pins) : (s.setPins p).OUT = s.OUT := rfl
@[simp] theorem State.setPins_DONE (s : State) (p : Pins) : (s.setPins p).DONE = s.DONE := rfl
@[simp] theorem State.setPins_sbox (s : State) (p : Pins) : (s.setPins p).sbox = s.sbox := rfl
@[simp] theorem State.setPins_pins (s : State) (p : Pins) : (s.setPins p).pins = p := rfl
@[simp] theorem State.setPins_drive (s : State) (p : Pins) : (s.setPins p).drive = s.drive := rfl
@[simp] theorem State.setPins_edge (s : State) (p : Pins) : (s.setPins p).edge = s.edge := rfl
@[simp] theorem State.setPins_live (s : State) (p : Pins) : (s.setPins p).live = s.live := rfl
@[simp] theorem State.setPins_toRegisters (s : State) (p : Pins) : (s.setPins p).toRegisters = s.toRegisters := rfl

@[simp] theorem State.resetRegisters_toRegisters (s : State) : s.resetRegisters.toRegisters = Registers.zero := rfl
@[simp] theorem State.resetRegisters_PHASE (s : State) : s.resetRegisters.PHASE = Registers.zero.PHASE := rfl
@[simp] theorem State.resetRegisters_I (s : State) : s.resetRegisters.I = Registers.zero.I := rfl
@[simp] theorem State.resetRegisters_DEC (s : State) : s.resetRegisters.DEC = Registers.zero.DEC := rfl
@[simp] theorem State.resetRegisters_C (s : State) : s.resetRegisters.C = Registers.zero.C := rfl
@[simp] theorem State.resetRegisters_D (s : State) : s.resetRegisters.D = Registers.zero.D := rfl
@[simp] theorem State.resetRegisters_K (s : State) : s.resetRegisters.K = Registers.zero.K := rfl
@[simp] theorem State.resetRegisters_L (s : State) : s.resetRegisters.L = Registers.zero.L := rfl
@[simp] theorem State.resetRegisters_R (s : State) : s.resetRegisters.R = Registers.zero.R := rfl
@[simp] theorem State.resetRegisters_OUT (s : State) : s.resetRegisters.OUT = Registers.zero.OUT := rfl
@[simp] theorem State.resetRegisters_DONE (s : State) : s.resetRegisters.DONE = Registers.zero.DONE := rfl
@[simp] theorem State.resetRegisters_sbox (s : State) : s.resetRegisters.sbox = s.sbox := rfl
@[simp] theorem State.resetRegisters_pins (s : State) : s.resetRegisters.pins = s.pins := rfl
@[simp] theorem State.resetRegisters_drive (s : State) : s.resetRegisters.drive = s.drive := rfl
@[simp] theorem State.resetRegisters_edge (s : State) : s.resetRegisters.edge = s.edge := rfl
@[simp] theorem State.resetRegisters_live (s : State) : s.resetRegisters.live = true := rfl

/-- The host side of an edge leaves every register alone. -/
@[simp] theorem State.nextPins_toRegisters (s : State) : s.nextPins.toRegisters = s.toRegisters := by
  unfold State.nextPins; split <;> rfl

@[simp] theorem State.nextPins_PHASE (s : State) : s.nextPins.PHASE = s.PHASE := by rw [State.nextPins_toRegisters]
@[simp] theorem State.nextPins_I (s : State) : s.nextPins.I = s.I := by rw [State.nextPins_toRegisters]
@[simp] theorem State.nextPins_DEC (s : State) : s.nextPins.DEC = s.DEC := by rw [State.nextPins_toRegisters]
@[simp] theorem State.nextPins_C (s : State) : s.nextPins.C = s.C := by rw [State.nextPins_toRegisters]
@[simp] theorem State.nextPins_D (s : State) : s.nextPins.D = s.D := by rw [State.nextPins_toRegisters]
@[simp] theorem State.nextPins_K (s : State) : s.nextPins.K = s.K := by rw [State.nextPins_toRegisters]
@[simp] theorem State.nextPins_L (s : State) : s.nextPins.L = s.L := by rw [State.nextPins_toRegisters]
@[simp] theorem State.nextPins_R (s : State) : s.nextPins.R = s.R := by rw [State.nextPins_toRegisters]
@[simp] theorem State.nextPins_OUT (s : State) : s.nextPins.OUT = s.OUT := by rw [State.nextPins_toRegisters]
@[simp] theorem State.nextPins_DONE (s : State) : s.nextPins.DONE = s.DONE := by rw [State.nextPins_toRegisters]
@[simp] theorem State.nextPins_sbox (s : State) : s.nextPins.sbox = s.sbox := by unfold State.nextPins; split <;> rfl
@[simp] theorem State.nextPins_live (s : State) : s.nextPins.live = s.live := by unfold State.nextPins; split <;> rfl
@[simp] theorem State.nextPins_edge (s : State) : s.nextPins.edge = s.edge + 1 := by unfold State.nextPins; split <;> rfl

theorem State.nextPins_of_drive {s : State} {p : Pins} {ps : List Pins} (h : s.drive = p :: ps) :
    s.nextPins = { s with pins := p, drive := ps, edge := s.edge + 1 } := by
  unfold State.nextPins; rw [h]

/-- Two states with the same parts are the same state. -/
theorem State.ext_parts {s t : State} (hr : s.toRegisters = t.toRegisters) (hx : s.sbox = t.sbox) (hp : s.pins = t.pins)
    (hd : s.drive = t.drive) (he : s.edge = t.edge) (hl : s.live = t.live) : s = t := by
  cases s; cases t; cases hr; cases hx; cases hp; cases hd; cases he; cases hl; rfl

/-- A register-file read after a write (R83). -/
theorem State.readK_writeK (s : State) (i j : Round) (v : Subkey) :
    (s.writeK i v).readK j = if i = j then v else s.readK j := by
  simp only [State.readK, State.writeK, Vector.getElem_set, Fin.ext_iff]

end Sys2Proof.Machine
end

