-- ==== Sys2Proof/Laws/Micro.lean ====
section
/-! SUPPORT. Everything each micro-step and the host side of an edge can do to a state, one lemma per field. -/

namespace Sys2Proof.Machine

/-- After an edge only the ports, the script and the edge count differ. -/
theorem State.nextPins_cases (s : State) :
    ∃ p ps, s.nextPins = { s with pins := p, drive := ps, edge := s.edge + 1 } := by
  unfold State.nextPins
  split
  · exact ⟨_, _, rfl⟩
  · exact ⟨_, s.drive, rfl⟩

/-! `KS` (R128). -/

@[simp] theorem State.keyStep_DEC (s : State) (r : Round) : (s.keyStep r).DEC = s.DEC := by
  unfold State.keyStep; dsimp only; split <;> rfl
@[simp] theorem State.keyStep_L (s : State) (r : Round) : (s.keyStep r).L = s.L := by
  unfold State.keyStep; dsimp only; split <;> rfl
@[simp] theorem State.keyStep_R (s : State) (r : Round) : (s.keyStep r).R = s.R := by
  unfold State.keyStep; dsimp only; split <;> rfl
@[simp] theorem State.keyStep_OUT (s : State) (r : Round) : (s.keyStep r).OUT = s.OUT := by
  unfold State.keyStep; dsimp only; split <;> rfl
@[simp] theorem State.keyStep_DONE (s : State) (r : Round) : (s.keyStep r).DONE = s.DONE := by
  unfold State.keyStep; dsimp only; split <;> rfl
@[simp] theorem State.keyStep_sbox (s : State) (r : Round) : (s.keyStep r).sbox = s.sbox := by
  unfold State.keyStep; dsimp only; split <;> rfl
@[simp] theorem State.keyStep_pins (s : State) (r : Round) : (s.keyStep r).pins = s.pins := by
  unfold State.keyStep; dsimp only; split <;> rfl
@[simp] theorem State.keyStep_drive (s : State) (r : Round) : (s.keyStep r).drive = s.drive := by
  unfold State.keyStep; dsimp only; split <;> rfl
@[simp] theorem State.keyStep_edge (s : State) (r : Round) : (s.keyStep r).edge = s.edge := by
  unfold State.keyStep; dsimp only; split <;> rfl
@[simp] theorem State.keyStep_live (s : State) (r : Round) : (s.keyStep r).live = s.live := by
  unfold State.keyStep; dsimp only; split <;> rfl
@[simp] theorem State.keyStep_C (s : State) (r : Round) : (s.keyStep r).C = rotl28 s.C (shiftOf r) := by
  unfold State.keyStep; dsimp only; split <;> rfl
@[simp] theorem State.keyStep_D (s : State) (r : Round) : (s.keyStep r).D = rotl28 s.D (shiftOf r) := by
  unfold State.keyStep; dsimp only; split <;> rfl
@[simp] theorem State.keyStep_K (s : State) (r : Round) :
    (s.keyStep r).K = s.K.set r.val (subkey (rotl28 s.C (shiftOf r)) (rotl28 s.D (shiftOf r))) r.isLt := by
  unfold State.keyStep; dsimp only; split <;> rfl

/-- Before round 16, `KS` goes to the next round of the phase it is in. -/
theorem State.keyStep_seq_of_lt (s : State) {r : Round} (h : r.val < 15) :
    (s.keyStep r).PHASE = s.PHASE ∧ (s.keyStep r).I.toNat = r.val + 2 := by
  unfold State.keyStep
  dsimp only
  rw [if_neg (by simp only [roundNumber]; omega)]
  refine ⟨rfl, ?_⟩
  rw [State.setSeq_I, BitVec.toNat_ofNat]
  simp only [roundNumber]
  omega

/-- At round 16, `KS` goes to (RND, 1). -/
theorem State.keyStep_seq_of_eq (s : State) {r : Round} (h : r.val = 15) :
    (s.keyStep r).PHASE = .rnd ∧ (s.keyStep r).I = 1#5 := by
  unfold State.keyStep
  dsimp only
  rw [if_pos (by simp only [roundNumber]; omega)]
  exact ⟨rfl, rfl⟩

/-! `RND` (R158). -/

@[simp] theorem State.feistelStep_DEC (s : State) (r : Round) : (s.feistelStep r).DEC = s.DEC := by
  unfold State.feistelStep; dsimp only; split <;> rfl
@[simp] theorem State.feistelStep_C (s : State) (r : Round) : (s.feistelStep r).C = s.C := by
  unfold State.feistelStep; dsimp only; split <;> rfl
@[simp] theorem State.feistelStep_D (s : State) (r : Round) : (s.feistelStep r).D = s.D := by
  unfold State.feistelStep; dsimp only; split <;> rfl
@[simp] theorem State.feistelStep_K (s : State) (r : Round) : (s.feistelStep r).K = s.K := by
  unfold State.feistelStep; dsimp only; split <;> rfl
@[simp] theorem State.feistelStep_OUT (s : State) (r : Round) : (s.feistelStep r).OUT = s.OUT := by
  unfold State.feistelStep; dsimp only; split <;> rfl
@[simp] theorem State.feistelStep_DONE (s : State) (r : Round) : (s.feistelStep r).DONE = s.DONE := by
  unfold State.feistelStep; dsimp only; split <;> rfl
@[simp] theorem State.feistelStep_sbox (s : State) (r : Round) : (s.feistelStep r).sbox = s.sbox := by
  unfold State.feistelStep; dsimp only; split <;> rfl
@[simp] theorem State.feistelStep_pins (s : State) (r : Round) : (s.feistelStep r).pins = s.pins := by
  unfold State.feistelStep; dsimp only; split <;> rfl
@[simp] theorem State.feistelStep_drive (s : State) (r : Round) : (s.feistelStep r).drive = s.drive := by
  unfold State.feistelStep; dsimp only; split <;> rfl
@[simp] theorem State.feistelStep_edge (s : State) (r : Round) : (s.feistelStep r).edge = s.edge := by
  unfold State.feistelStep; dsimp only; split <;> rfl
@[simp] theorem State.feistelStep_live (s : State) (r : Round) : (s.feistelStep r).live = s.live := by
  unfold State.feistelStep; dsimp only; split <;> rfl
@[simp] theorem State.feistelStep_L (s : State) (r : Round) : (s.feistelStep r).L = s.R := by
  unfold State.feistelStep; dsimp only; split <;> rfl
@[simp] theorem State.feistelStep_R (s : State) (r : Round) :
    (s.feistelStep r).R = s.L ^^^ f s.sbox s.R (s.readK (ksel s.DEC r)) := by
  unfold State.feistelStep; dsimp only; split <;> rfl

/-- Before round 16, `RND` goes to the next round of the phase it is in. -/
theorem State.feistelStep_seq_of_lt (s : State) {r : Round} (h : r.val < 15) :
    (s.feistelStep r).PHASE = s.PHASE ∧ (s.feistelStep r).I.toNat = r.val + 2 := by
  unfold State.feistelStep
  dsimp only
  rw [if_neg (by simp only [roundNumber]; omega)]
  refine ⟨rfl, ?_⟩
  rw [State.setSeq_I, BitVec.toNat_ofNat]
  simp only [roundNumber]
  omega

/-- At round 16, `RND` goes to (FIN, 0). -/
theorem State.feistelStep_seq_of_eq (s : State) {r : Round} (h : r.val = 15) :
    (s.feistelStep r).PHASE = .fin ∧ (s.feistelStep r).I = 0#5 := by
  unfold State.feistelStep
  dsimp only
  rw [if_pos (by simp only [roundNumber]; omega)]
  exact ⟨rfl, rfl⟩

/-- The subkey a round reads is the one at its place in the command's order (R96, R160). -/
theorem keyOrder_getElem (dec : Bool) (key : Key) (r : Round) :
    (keyOrder dec key)[r.val] = (generateSubkeys key)[(ksel dec r).val] := by
  unfold keyOrder ksel
  cases dec
  · simp
  · simp only [reversedKeys, roundNumber, Fin.rev, if_true, Vector.getElem_ofFn]
    have h : 16 - (r.val + 1) = 17 - (r.val + 1) - 1 := by omega
    simp only [h]

/-- A legal `I` in KS or RND names a round. -/
theorem Registers.exists_round_of_seqLegal {s : Registers} (h : s.seqLegal = true)
    (hp : s.PHASE = .ks ∨ s.PHASE = .rnd) : ∃ r : Round, s.I.toNat = roundNumber r := by
  have hi : isRoundIndex s.I = true := by rcases hp with hp | hp <;> simpa [Registers.seqLegal, hp] using h
  simp only [isRoundIndex, ROUNDS, Bool.and_eq_true, decide_eq_true_eq] at hi
  exact ⟨⟨s.I.toNat - 1, by omega⟩, by simp only [roundNumber]; omega⟩

end Sys2Proof.Machine
end

