-- ==== Sys2Proof/Laws/Operands.lean ====
section
/-! SUPPORT. What the operand-assembly functions answer: round indices (R96, R97), the step word of a state (R90), the
S-box ROM (R73). -/

namespace Sys2Proof.Machine

/-- The fields of a state's step word are the ports and the sequencing state. -/
theorem unpack_stepWord (s : State) :
    StepFields.unpack (stepWord s) =
      { rst := s.pins.rst, phase := s.PHASE.code, i := s.I, start := s.pins.start, dec := s.pins.dec,
        block := s.pins.block_in, key := s.pins.key_in } :=
  StepFields.unpack_pack _

/-- The row a state's step word selects, said of the ports and of `PHASE` (R91). -/
theorem decode_stepWord (s : State) :
    decode (stepWord s) =
      if s.pins.rst then .rst
      else match s.PHASE with
        | .idle =>
          if s.pins.start then
            (if s.pins.dec then .dec s.pins.block_in s.pins.key_in else .enc s.pins.block_in s.pins.key_in)
          else .nop
        | .ks => .ks s.I
        | .rnd => .rnd s.I
        | .fin => .fin := by
  rw [decode, unpack_stepWord]
  unfold StepFields.instr
  cases s.PHASE <;> rfl

/-- `roundOf` answers the round whose number the field holds. -/
theorem roundOf_eq_some_iff (i : BitVec 5) (r : Round) : roundOf i = some r ↔ i.toNat = roundNumber r := by
  simp only [roundOf, roundNumber]
  split
  · simp only [Option.some.injEq, Fin.ext_iff]; omega
  · simp only [false_iff, reduceCtorEq]; have := r.isLt; omega

/-- `roundOf` answers nothing exactly outside 1..16. -/
theorem roundOf_eq_none_iff (i : BitVec 5) : roundOf i = none ↔ isRoundIndex i = false := by
  simp only [roundOf, isRoundIndex, ROUNDS]
  split <;> simp_all

/-- The field that holds a round's number names the round. -/
@[simp] theorem roundOf_ofNat (r : Round) : roundOf (BitVec.ofNat 5 (roundNumber r)) = some r := by
  rw [roundOf_eq_some_iff, BitVec.toNat_ofNat]
  have := r.isLt
  simp only [roundNumber]
  omega

/-- Reading the ROM at an assembled address gives the addressed entry (R73). -/
theorem readRom_romAddr (t : SBox) (j : Fin 8) (r : BitVec 2) (c : BitVec 4) :
    t.readRom (romAddr j r c) = t.entry j r c := by
  have h : ∀ (j : Fin 8) (r : BitVec 2) (c : BitVec 4), (romAddr j r c).extractLsb' 6 3 = BitVec.ofFin j ∧
      (romAddr j r c).extractLsb' 4 2 = r ∧ (romAddr j r c).extractLsb' 0 4 = c := by decide +kernel
  obtain ⟨hj, hr, hc⟩ := h j r c
  unfold SBox.readRom
  rw [hj, hr, hc]

end Sys2Proof.Machine
end

