-- ==== Sys2Proof/Laws/PerInstr.lean ====
section
/-! SUPPORT. Families of statements about the instruction as syntax, one lemma per constructor. -/

namespace Sys2Proof.Laws.RowMatch

/-- Whatever the unexamined bits, the instruction's step word selects the row of the opcode table that carries the
instruction's mnemonic (R99). -/
def Statement (i : Instr) : Prop :=
  ∀ fill : StepWord, ∃ r ∈ opcodeTable, r.mnemonic = i.mnemonic ∧ r.selects (encodeWith fill i) = true

/-- A row whose mask and value are packed fields selects a packed word when the masked fields are the value's. -/
theorem selects_of_fields {r : OpcodeRow} {f m v : StepFields} (hm : r.mask = m.pack) (hv : r.value = v.pack)
    (h : StepFields.mk (f.rst && m.rst) (f.phase &&& m.phase) (f.i &&& m.i) (f.start && m.start) (f.dec && m.dec)
      (f.block &&& m.block) (f.key &&& m.key) = v) : r.selects f.pack = true := by
  unfold OpcodeRow.selects
  rw [hm, hv, StepFields.pack_and, h, beq_self_eq_true]

theorem rst : Statement .rst := fun fill =>
  ⟨_, .head _, rfl, selects_of_fields (m := ⟨true, 0, 0, false, false, 0, 0⟩) (v := ⟨true, 0, 0, false, false, 0, 0⟩)
    (by decide +kernel) (by decide +kernel) (by simp)⟩

theorem nop : Statement .nop := fun fill =>
  ⟨_, .tail _ (.head _), rfl, selects_of_fields (m := ⟨true, 3, 0, true, false, 0, 0⟩)
    (v := ⟨false, 0, 0, false, false, 0, 0⟩) (by decide +kernel) (by decide +kernel) (by simp)⟩

theorem enc (b : Block) (k : Key) : Statement (.enc b k) := fun fill =>
  ⟨_, .tail _ (.tail _ (.head _)), rfl, selects_of_fields (m := ⟨true, 3, 0, true, true, 0, 0⟩)
    (v := ⟨false, 0, 0, true, false, 0, 0⟩) (by decide +kernel) (by decide +kernel) (by simp)⟩

theorem dec (b : Block) (k : Key) : Statement (.dec b k) := fun fill =>
  ⟨_, .tail _ (.tail _ (.tail _ (.head _))), rfl, selects_of_fields (m := ⟨true, 3, 0, true, true, 0, 0⟩)
    (v := ⟨false, 0, 0, true, true, 0, 0⟩) (by decide +kernel) (by decide +kernel) (by simp)⟩

theorem ks (i : BitVec 5) : Statement (.ks i) := fun fill =>
  ⟨_, .tail _ (.tail _ (.tail _ (.tail _ (.head _)))), rfl, selects_of_fields (m := ⟨true, 3, 0, false, false, 0, 0⟩)
    (v := ⟨false, 1, 0, false, false, 0, 0⟩) (by decide +kernel) (by decide +kernel) (by simp)⟩

theorem rnd (i : BitVec 5) : Statement (.rnd i) := fun fill =>
  ⟨_, .tail _ (.tail _ (.tail _ (.tail _ (.tail _ (.head _))))), rfl,
    selects_of_fields (m := ⟨true, 3, 0, false, false, 0, 0⟩) (v := ⟨false, 2, 0, false, false, 0, 0⟩)
      (by decide +kernel) (by decide +kernel) (by simp)⟩

theorem fin : Statement .fin := fun fill =>
  ⟨_, .tail _ (.tail _ (.tail _ (.tail _ (.tail _ (.tail _ (.head _)))))), rfl,
    selects_of_fields (m := ⟨true, 3, 0, false, false, 0, 0⟩) (v := ⟨false, 3, 0, false, false, 0, 0⟩)
      (by decide +kernel) (by decide +kernel) (by simp)⟩

end Sys2Proof.Laws.RowMatch
end

