-- ==== Sys2Proof/Laws/Permutation.lean ====
section
/-! SUPPORT. What `permute` puts in each output bit, counted from the most significant bit (R110). -/

namespace Sys2Proof.Machine

/-- The bit at a DES position is the bit counted from the most significant end (R11). -/
theorem bit_eq_getMsbD {w : Nat} (v : BitVec w) {p : Nat} (h1 : 1 ≤ p) (h2 : p ≤ w) : bit v p = v.getMsbD (p - 1) := by
  rw [bit, BitVec.getMsbD, decide_eq_true (by omega : p - 1 < w), Bool.true_and]
  congr 1
  omega

/-- Output bit `m` (from 0, most significant first) of `permute` is the bit of the value at the table's entry `m`. -/
theorem getMsbD_permute {w n : Nat} (t : PermTable w n) (v : BitVec w) (m : Nat) :
    (permute t v).getMsbD m = ((t.entries[m]?).map (bit v)).getD false := by
  obtain ⟨l, rfl, hr⟩ := t
  have hcast : permute ⟨l, rfl, hr⟩ v = (BitVec.ofBoolListBE (l.map (bit v))).cast (by simp) := rfl
  rw [hcast, BitVec.getMsbD_cast, BitVec.getMsbD_ofBoolListBE, List.getD_eq_getElem?_getD, List.getElem?_map]

/-- Two permuted values are equal when their listed bits are. -/
theorem permute_congr {w n : Nat} (t : PermTable w n) {v v' : BitVec w} (h : ∀ p ∈ t.entries, bit v p = bit v' p) :
    permute t v = permute t v' := by
  apply BitVec.eq_of_getMsbD_eq
  intro m _
  rw [getMsbD_permute, getMsbD_permute]
  cases hm : t.entries[m]? with
  | none => rfl
  | some p => exact h p (List.mem_of_getElem? hm)

end Sys2Proof.Machine
end

