-- ==== Sys2Proof/Laws/Step.lean ====
section
/-! SUPPORT. What a step and a run can do, said once. -/

namespace Sys2Proof.Machine

/-- In a state that a reset has specified, or at an edge with `rst` = 1, the step selects the decoded row. -/
theorem selectInstr_ok {s : State} (h : s.live = true ∨ s.pins.rst = true) :
    selectInstr s = .ok (decode (stepWord s)) := by
  unfold selectInstr
  rcases h with h | h <;> simp [h]

/-- A step is the decoded instruction's effect, then the host's next levels. -/
theorem step_of_exec {s t : State} (h : s.live = true ∨ s.pins.rst = true)
    (he : exec (decode (stepWord s)) s = .next t) : step s = .next t.nextPins := by
  simp only [step, selectInstr_ok h, he]

/-- Everything a completed step can have done: it ran the decoded instruction, and the host drove its next levels. -/
theorem step_next_cases {s t : State} (h : step s = .next t) :
    (s.live = true ∨ s.pins.rst = true) ∧ ∃ u, exec (decode (stepWord s)) s = .next u ∧ t = u.nextPins := by
  have hl : s.live = true ∨ s.pins.rst = true := by
    by_contra hn
    rw [not_or, Bool.not_eq_true, Bool.not_eq_true] at hn
    simp [step, selectInstr, hn.1, hn.2] at h
  refine ⟨hl, ?_⟩
  simp only [step, selectInstr_ok hl] at h
  split at h
  · rename_i u hu
    exact ⟨u, hu, by injection h with h; exact h.symm⟩
  · cases h
  · cases h

/-- Everything a completed instruction can have done. -/
theorem exec_next_cases {i : Instr} {s t : State} (h : exec i s = .next t) :
    (i = .rst ∧ t = s.resetRegisters) ∨ (i = .nop ∧ t = s) ∨
      (∃ b k, i = .enc b k ∧ t = s.accept false b k) ∨ (∃ b k, i = .dec b k ∧ t = s.accept true b k) ∨
      (∃ n r, i = .ks n ∧ roundOf n = some r ∧ t = s.keyStep r) ∨
      (∃ n r, i = .rnd n ∧ roundOf n = some r ∧ t = s.feistelStep r) ∨ (i = .fin ∧ t = s.finish) := by
  cases i with
  | rst => injection h with h; exact .inl ⟨rfl, h.symm⟩
  | nop => injection h with h; exact .inr (.inl ⟨rfl, h.symm⟩)
  | enc b k => injection h with h; exact .inr (.inr (.inl ⟨b, k, rfl, h.symm⟩))
  | dec b k => injection h with h; exact .inr (.inr (.inr (.inl ⟨b, k, rfl, h.symm⟩)))
  | ks n =>
    simp only [exec, execKs] at h
    split at h
    · rename_i r hr
      injection h with h
      exact .inr (.inr (.inr (.inr (.inl ⟨n, r, rfl, hr, h.symm⟩))))
    · cases h
  | rnd n =>
    simp only [exec, execRnd] at h
    split at h
    · rename_i r hr
      injection h with h
      exact .inr (.inr (.inr (.inr (.inr (.inl ⟨n, r, rfl, hr, h.symm⟩)))))
    · cases h
  | fin => injection h with h; exact .inr (.inr (.inr (.inr (.inr (.inr ⟨rfl, h.symm⟩)))))

/-- The parts of a state that no instruction writes. -/
theorem exec_next_host {i : Instr} {s t : State} (h : exec i s = .next t) :
    t.sbox = s.sbox ∧ t.pins = s.pins ∧ t.drive = s.drive ∧ t.edge = s.edge ∧ (t.live = s.live ∨ t.live = true) := by
  rcases exec_next_cases h with ⟨_, rfl⟩ | ⟨_, rfl⟩ | ⟨b, k, _, rfl⟩ | ⟨b, k, _, rfl⟩ | ⟨n, r, _, _, rfl⟩ |
    ⟨n, r, _, _, rfl⟩ | ⟨_, rfl⟩
  · exact ⟨rfl, rfl, rfl, rfl, .inr rfl⟩
  · exact ⟨rfl, rfl, rfl, rfl, .inl rfl⟩
  · exact ⟨rfl, rfl, rfl, rfl, .inl rfl⟩
  · exact ⟨rfl, rfl, rfl, rfl, .inl rfl⟩
  · unfold State.keyStep; dsimp only; split <;> exact ⟨rfl, rfl, rfl, rfl, .inl rfl⟩
  · unfold State.feistelStep; dsimp only; split <;> exact ⟨rfl, rfl, rfl, rfl, .inl rfl⟩
  · exact ⟨rfl, rfl, rfl, rfl, .inl rfl⟩

/-- A run of the machine is the host interface's run. -/
theorem run_eq_core_run (n : Nat) (s : State) : run n s = Host.Core.run core n s := by
  induction n generalizing s with
  | zero => rfl
  | succ n ih =>
    cases h : step s with
    | next t =>
      have h' : core.step s = .next t := h
      simp only [run, Host.Core.run, h, h']
      exact ih t
    | fault r => exact nomatch r
    | refused r =>
      have h' : core.step s = .refused r := h
      simp only [run, Host.Core.run, h, h']
      rfl

/-- A run over two scripts one after the other. -/
theorem runPins_append (ps qs : List Pins) {s t : State} (h : runPins ps s = .next t) :
    runPins (ps ++ qs) s = runPins qs t := by
  induction ps generalizing s with
  | nil => injection h with h; subst h; rfl
  | cons p ps ih =>
    simp only [List.cons_append, runPins] at h ⊢
    cases hs : step (s.setPins p) with
    | next u => rw [hs] at h; exact ih h
    | fault r => rw [hs] at h; cases h
    | refused r => rw [hs] at h; cases h

/-- Host lines one list after the other. -/
theorem runLines_append (ls ms : List HostLine) {s t : State} (h : runLines ls s = .next t) :
    runLines (ls ++ ms) s = runLines ms t := by
  unfold runLines
  rw [List.map_append]
  exact runPins_append _ _ h

/-- Everything `WAIT` can answer: it drove at least one `NOP` line and no more than `fuel`, and `done` is 1. -/
theorem waitDone_some {fuel n : Nat} {s t : State} (h : waitDone fuel s = some (n, t)) :
    1 ≤ n ∧ n ≤ fuel ∧ runLines (List.replicate n .nop) s = .next t ∧ done t = true := by
  induction fuel generalizing s n with
  | zero => cases h
  | succ fuel ih =>
    simp only [waitDone] at h
    split at h
    · rename_i u hu
      split at h
      · rename_i hd
        simp only [Option.some.injEq, Prod.mk.injEq] at h
        obtain ⟨rfl, rfl⟩ := h
        exact ⟨Nat.le_refl 1, by omega, hu, hd⟩
      · simp only [Option.map_eq_some_iff, Prod.mk.injEq, Prod.exists] at h
        obtain ⟨m, v, hm, rfl, rfl⟩ := h
        obtain ⟨h1, h2, h3, h4⟩ := ih hm
        exact ⟨by omega, by omega, (runLines_append [.nop] (List.replicate m .nop) hu).trans h3, h4⟩
    · cases h

/-- The lines that a `WAIT` expands to lead to the state it answers. -/
theorem runWait_some {ls : List HostLine} {s t : State} (h : runWait s = some (ls, t)) :
    runLines ls s = .next t ∧ done t = true := by
  simp only [runWait, Option.map_eq_some_iff, Prod.mk.injEq, Prod.exists] at h
  obtain ⟨n, u, hn, rfl, rfl⟩ := h
  exact (waitDone_some hn).2.2

/-- The lines that a command line with its `WAIT` expands to lead to the state it answers. -/
theorem runThenWait_some {ls ms : List HostLine} {s t : State} (h : runThenWait ls s = some (ms, t)) :
    runLines ms s = .next t ∧ done t = true := by
  simp only [runThenWait] at h
  split at h
  · rename_i u hu
    simp only [Option.map_eq_some_iff, Prod.mk.injEq, Prod.exists] at h
    obtain ⟨ns, v, hv, rfl, rfl⟩ := h
    rw [runLines_append ls ns hu]
    exact runWait_some hv
  · cases h

/-- A pseudo-instruction is its lines: driving them one by one leads to the state it answers. -/
theorem runPseudo_some {p : HostPseudo} {ls : List HostLine} {s t : State} (h : runPseudo p s = some (ls, t)) :
    runLines ls s = .next t := by
  cases p with
  | nops n =>
    simp only [runPseudo] at h
    split at h
    · rename_i u hu
      simp only [Option.some.injEq, Prod.mk.injEq] at h
      obtain ⟨rfl, rfl⟩ := h
      exact hu
    · cases h
  | wait => exact (runWait_some h).1
  | encrypt b k => exact (runThenWait_some h).1
  | decrypt b k => exact (runThenWait_some h).1

end Sys2Proof.Machine
end

