-- ==== Sys2Proof/Tests/Slice0.lean ====
section
/-! SUPPORT. Tests with results taken from the spec's worked examples (95_test_vectors.md and the rules named), and for
every obligation with hypotheses a witness that meets them. -/

namespace Sys2Proof.Tests

open Sys2Proof Sys2Proof.Machine

/-! ### Well-formedness -/

theorem test_ks_zero_illFormed : (Instr.ks 0#5).wellFormed = false := by decide
theorem test_ks_seventeen_illFormed : (Instr.ks 17#5).wellFormed = false := by decide
theorem test_rnd_zero_illFormed : (Instr.rnd 0#5).wellFormed = false := by decide
theorem test_rnd_thirtyOne_illFormed : (Instr.rnd 31#5).wellFormed = false := by decide
theorem test_round_ends_wellFormed :
    (Instr.ks 1#5).wellFormed = true ∧ (Instr.ks 16#5).wellFormed = true ∧ (Instr.rnd 1#5).wellFormed = true ∧
      (Instr.rnd 16#5).wellFormed = true := by decide

/-! ### Decoding: words laid out field by field from R90 and R91 -/

/-- V56's row: (RND, 7) with `start` = 1; only `rst` counts. -/
theorem test_decode_rst :
    decode (0b1#1 ++ 0b10#2 ++ 0b00111#5 ++ 0b1#1 ++ 0b0#1 ++ 0x0123456789ABCDEF#64 ++ 0x133457799BBCDFF1#64) = .rst := by
  decide +kernel
/-- V46's row: `dec` without `start` is ignored. -/
theorem test_decode_nop :
    decode (0b0#1 ++ 0b00#2 ++ 0b00000#5 ++ 0b0#1 ++ 0b1#1 ++ 0xFFFFFFFFFFFFFFFF#64 ++ 0xFFFFFFFFFFFFFFFF#64) = .nop := by
  decide +kernel
/-- V47's row. -/
theorem test_decode_enc :
    decode (0b0#1 ++ 0b00#2 ++ 0b00000#5 ++ 0b1#1 ++ 0b0#1 ++ 0x0123456789ABCDEF#64 ++ 0x133457799BBCDFF1#64) =
      .enc 0x0123456789ABCDEF#64 0x133457799BBCDFF1#64 := by decide +kernel
/-- V48's row. -/
theorem test_decode_dec :
    decode (0b0#1 ++ 0b00#2 ++ 0b00000#5 ++ 0b1#1 ++ 0b1#1 ++ 0x85E813540F0AB405#64 ++ 0x133457799BBCDFF1#64) =
      .dec 0x85E813540F0AB405#64 0x133457799BBCDFF1#64 := by decide +kernel
/-- V50's row: `start` = 1 while busy is not examined. -/
theorem test_decode_ks :
    decode (0b0#1 ++ 0b01#2 ++ 0b10000#5 ++ 0b1#1 ++ 0b1#1 ++ 0xFFFFFFFFFFFFFFFF#64 ++ 0xFFFFFFFFFFFFFFFF#64) =
      .ks 16#5 := by decide +kernel
/-- V54's row. -/
theorem test_decode_rnd :
    decode (0b0#1 ++ 0b10#2 ++ 0b10000#5 ++ 0b0#1 ++ 0b0#1 ++ 0#64 ++ 0#64) = .rnd 16#5 := by decide +kernel
/-- V58's row. -/
theorem test_decode_fin :
    decode (0b0#1 ++ 0b11#2 ++ 0b00000#5 ++ 0b1#1 ++ 0b0#1 ++ 0x0123456789ABCDEF#64 ++ 0x133457799BBCDFF1#64) = .fin := by
  decide +kernel
/-- Encoding gives V47's and V49's words. -/
theorem test_encode :
    encode (.enc 0x0123456789ABCDEF#64 0x133457799BBCDFF1#64) = 0x0020123456789ABCDEF133457799BBCDFF1#138 ∧
      encode (.ks 1#5) = 0x08400000000000000000000000000000000#138 := by decide +kernel
theorem test_too_wide_rejected : decodeNat (2 ^ 138) = .error .widerThanStepWord ∧ decodeTableWord 144 (2 ^ 140) = none := by
  decide +kernel
theorem test_decodeTableWord : decodeTableWord 138 0x08400000000000000000000000000000000 = some (.ks 1#5) := by
  decide +kernel

/-! ### One step of each row, from reset -/

/-- The outcome is a next state of which `p` holds. -/
def reaches (o : Host.Outcome State Fault Refusal) (p : State → Bool) : Bool :=
  match o with
  | .next t => p t
  | .fault _ => false
  | .refused _ => false

/-- A small state: reset, with the sequencing state given. -/
def seqAt (ph : Phase) (i : BitVec 5) : State := State.reset.setSeq ph i

/-- V57: `DONE` and `OUT` are cleared. -/
theorem test_rst :
    reaches (step (((State.reset.setOut 0x85E813540F0AB405#64).raiseDone).withFetchWord 138
      0x20000000000000000000000000000000000)) (fun t => t.OUT == 0#64 && !t.DONE && t.PHASE == .idle) = true := by
  decide +kernel
/-- V46, with a result on the port. -/
theorem test_nop :
    reaches (step (((State.reset.setOut 0x85E813540F0AB405#64).raiseDone).withFetchWord 138
      0x001FFFFFFFFFFFFFFFFFFFFFFFFFFFFFFFF)) (fun t => t.OUT == 0x85E813540F0AB405#64 && t.DONE && !t.DEC) = true := by
  decide +kernel
/-- V47. -/
theorem test_enc :
    reaches (step (State.reset.raiseDone.withFetchWord 138 0x0020123456789ABCDEF133457799BBCDFF1)) (fun t =>
      t.PHASE == .ks && t.I == 1#5 && !t.DEC && t.C == 0xF0CCAAF#28 && t.D == 0x556678F#28 && t.L == 0xCC00CCFF#32 &&
        t.R == 0xF0AAF0AA#32 && !t.DONE) = true := by decide +kernel
/-- V48. -/
theorem test_dec :
    reaches (step (State.reset.withFetchWord 138 0x00385E813540F0AB405133457799BBCDFF1)) (fun t =>
      t.PHASE == .ks && t.I == 1#5 && t.DEC && t.C == 0xF0CCAAF#28 && t.D == 0x556678F#28 && t.L == 0x0A4CD995#32 &&
        t.R == 0x43423234#32) = true := by decide +kernel
/-- V49. -/
theorem test_ks_first :
    reaches (step ((State.reset.setKeyHalves 0xF0CCAAF#28 0x556678F#28).withFetchWord 138
      0x08400000000000000000000000000000000)) (fun t =>
      t.C == 0xE19955F#28 && t.D == 0xAACCF1E#28 && t.K[0] == 0x1B02EFFC7072#48 && t.PHASE == .ks && t.I == 2#5) = true := by
  decide +kernel
/-- V50. -/
theorem test_ks_last :
    reaches (step ((State.reset.setKeyHalves 0xF866557#28 0xAAB33C7#28).withFetchWord 138
      0x0C3FFFFFFFFFFFFFFFFFFFFFFFFFFFFFFFF)) (fun t =>
      t.C == 0xF0CCAAF#28 && t.D == 0x556678F#28 && t.K[15] == 0xCB3D8B0E17F5#48 && t.PHASE == .rnd && t.I == 1#5) = true := by
  decide +kernel
/-- V53: decrypting, round 1 reads `K[16]`. -/
theorem test_rnd_decrypting :
    reaches (step ((((State.reset.setDec true).setHalves 0x0A4CD995#32 0x43423234#32).writeK 15
      0xCB3D8B0E17F5#48).withFetchWord 138 0x10400000000000000000000000000000000)) (fun t =>
      t.L == 0x43423234#32 && t.R == 0xC28C960D#32 && t.PHASE == .rnd && t.I == 2#5) = true := by decide +kernel
/-- V54. -/
theorem test_rnd_last :
    reaches (step (((State.reset.setHalves 0xC28C960D#32 0x43423234#32).writeK 15 0xCB3D8B0E17F5#48).withFetchWord 138
      0x14000000000000000000000000000000000)) (fun t =>
      t.L == 0x43423234#32 && t.R == 0x0A4CD995#32 && t.PHASE == .fin && t.I == 0#5) = true := by decide +kernel
/-- V55, and V58's word: `start` at the FIN edge is lost. -/
theorem test_fin :
    reaches (step ((State.reset.setHalves 0x43423234#32 0x0A4CD995#32).withFetchWord 138
      0x1820123456789ABCDEF133457799BBCDFF1)) (fun t =>
      t.OUT == 0x85E813540F0AB405#64 && t.DONE && t.PHASE == .idle && t.I == 0#5) = true := by decide +kernel
/-- V59: (KS, 0) has no step. -/
theorem test_ks_zero_refused :
    step (State.reset.withFetchWord 138 0x08000000000000000000000000000000000) = .refused .roundOutOfRange := by rfl

/-! ### Pure functions, values of 95_test_vectors.md -/

/-- V18, first and last subkey. -/
theorem test_second_schedule :
    (generateSubkeys 0x0123456789ABCDEF#64)[0] = 0x0B02679B49A5#48 ∧
      (generateSubkeys 0x0123456789ABCDEF#64)[15] = 0xCA3D03B87032#48 := by decide +kernel
/-- V24, (4, 2, 7) at ROM address 295. -/
theorem test_rom : SBOX_STD.readRom 295#9 = 8#4 ∧ (SBOX_REP S1).readRom 295#9 = 11#4 := by decide
/-- V36: decrypting a value that was never encrypted, under a second key. -/
theorem test_decrypt :
    decrypt SBOX_STD 0x4E6F772069732074#64 0x0123456789ABCDEF#64 = 0xA416143D9243704C#64 := by decide +kernel
/-- A permutation entry of 0 and a missing entry. -/
theorem test_perm_defects :
    permDefects 4 2 [0, 4] = [.permRange] ∧ permDefects 4 2 [4] = [.permLength] ∧ permDefects 4 2 [4, 1] = [] := by decide

/-! ### Witnesses: states, ports and tables that meet the obligations' hypotheses -/

/-- A request to encrypt zeros. -/
def ask : Pins := { Pins.low with start := true }
/-- An edge with `rst` = 1. -/
def resetPins : Pins := { Pins.low with rst := true }
/-- A state no reset has specified. -/
def unspecified : State := { State.reset with live := false }
/-- A state with a result, as after a command on `block` and `key`. -/
def afterCommand (block : Block) (key : Key) : State :=
  let lr := pairAfter SBOX_STD (ipSplit block) (generateSubkeys key) 16 (Nat.le_refl 16)
  let cd := pc1Split key
  { State.reset with
    C := cd.1, D := cd.2, K := generateSubkeys key, L := lr.1, R := lr.2
    OUT := encrypt SBOX_STD block key, DONE := true }
/-- The state at the start of the rounds of such a command. -/
def atFirstRound (block : Block) (key : Key) : State :=
  let lr := ipSplit block
  { afterCommand block key with PHASE := .rnd, I := 1#5, DONE := false, L := lr.1, R := lr.2 }
/-- The state before the FIN edge of such a command. -/
def beforeFin (block : Block) (key : Key) : State := { afterCommand block key with PHASE := .fin, DONE := false }

/-- A NOP step from reset. -/
theorem reset_steps : step State.reset = .next State.reset.nextPins :=
  step_of_exec (.inl rfl) (by rw [decode_stepWord]; rfl)

theorem low_noReset (n : Nat) : noReset (List.replicate n Pins.low) := by
  intro p hp; rw [List.eq_of_mem_replicate hp]; rfl

theorem wit_StepRunsDecodedInstruction :
    (State.reset.live = true ∧ exec (decode (stepWord State.reset)) State.reset = .next State.reset) ∧
    ((seqAt .ks 0#5).live = true ∧
      exec (decode (stepWord (seqAt .ks 0#5))) (seqAt .ks 0#5) = .refused .roundOutOfRange) :=
  ⟨⟨rfl, by rw [decode_stepWord]; rfl⟩, ⟨rfl, by rw [decode_stepWord]; rfl⟩⟩

theorem wit_StepFollowsPriorityDecode :
    ((State.reset.setPins resetPins).pins.rst = true) ∧
    (State.reset.live = true ∧ State.reset.pins.rst = false ∧ State.reset.PHASE = .idle ∧
      State.reset.pins.start = false ∧ (State.reset.setPins ask).pins.start = true) ∧
    ((seqAt .ks 1#5).I.toNat = roundNumber 0 ∧ (seqAt .ks 16#5).I.toNat = roundNumber 15) ∧
    ((seqAt .rnd 1#5).I.toNat = roundNumber 0 ∧ (seqAt .rnd 16#5).I.toNat = roundNumber 15) ∧
    ((seqAt .fin 0#5).PHASE = .fin ∧ (seqAt .rnd 16#5).seqLegal = true) ∧
    (unspecified.live = false ∧ unspecified.pins.rst = false) := by decide

theorem wit_PowerUpStateTakesOnlyReset :
    unspecified.live = false ∧ unspecified.pins.rst = false ∧ (unspecified.setPins resetPins).live = false ∧
      (unspecified.setPins resetPins).pins.rst = true := by decide

theorem wit_PortsFollowHostScript :
    (step State.reset = .next State.reset.nextPins ∧ State.reset.drive = []) ∧
    ((State.reset.script [.nop, .rst]).drive = [resetPins] ∧
      ∃ t, step (State.reset.script [.nop, .rst]) = .next t) ∧
    (∃ t, runLines [.nop] State.reset = .next t) := by
  refine ⟨⟨reset_steps, rfl⟩, ⟨rfl, _, step_of_exec (.inl rfl) (by rw [decode_stepWord]; rfl)⟩, ?_⟩
  have h : step (State.reset.setPins (HostLine.pins .nop)) = .next State.reset.nextPins := reset_steps
  exact ⟨State.reset.nextPins, by simp only [runLines, List.map, runPins, h]⟩

theorem wit_ResetClearsEveryRegister :
    (State.reset.setPins resetPins).pins.rst = true ∧
      exec .rst (State.reset.setPins resetPins) = .next (State.reset.setPins resetPins).resetRegisters := ⟨rfl, rfl⟩

theorem wit_NopWritesNoRegister :
    State.reset.ready ∧ State.reset.pins.rst = false ∧ State.reset.pins.start = false := by decide

theorem wit_AcceptLoadsHalvesAndDirection :
    (State.reset.setPins ask).ready ∧ (State.reset.setPins ask).pins.requests ∧
      ∃ t, exec (.enc 0#64 0#64) (State.reset.setPins ask) = .next t := ⟨by decide, by decide, _, rfl⟩

theorem wit_KsRotatesAndStoresSubkey :
    ((1#5 : BitVec 5).toNat = (0 : Round).val + 1 ∧ (16#5 : BitVec 5).toNat = (15 : Round).val + 1) ∧
    ((seqAt .ks 1#5).live = true ∧ (seqAt .ks 1#5).pins.rst = false ∧ (seqAt .ks 1#5).PHASE = .ks ∧
      ∃ t, exec (.ks (seqAt .ks 1#5).I) (seqAt .ks 1#5) = .next t) ∧
    (((seqAt .ks 1#5).setKeyHalves 0xF0CCAAF#28 0x556678F#28).PHASE = .ks ∧
      ((seqAt .ks 1#5).setKeyHalves 0xF0CCAAF#28 0x556678F#28).C = 0xF0CCAAF#28) :=
  ⟨by decide, ⟨rfl, rfl, rfl, _, rfl⟩, ⟨rfl, rfl⟩⟩

theorem wit_RndAppliesOneFeistelRound :
    ((0 : Round).val + 1 = (if (seqAt .rnd 1#5).DEC then 17 - (1#5 : BitVec 5).toNat else (1#5 : BitVec 5).toNat)) ∧
    ((0 : Round).val + 1 =
      (if ((seqAt .rnd 16#5).setDec true).DEC then 17 - (16#5 : BitVec 5).toNat else (16#5 : BitVec 5).toNat)) ∧
    ((seqAt .rnd 1#5).live = true ∧ (seqAt .rnd 1#5).pins.rst = false ∧ (seqAt .rnd 1#5).PHASE = .rnd ∧
      ∃ t, exec (.rnd (seqAt .rnd 1#5).I) (seqAt .rnd 1#5) = .next t) ∧
    (let s := ((seqAt .rnd 1#5).setHalves 0xCC00CCFF#32 0xF0AAF0AA#32).writeK 0 0x1B02EFFC7072#48
     s.PHASE = .rnd ∧ s.sbox = SBOX_STD ∧ s.DEC = false ∧ s.L = 0xCC00CCFF#32 ∧ s.R = 0xF0AAF0AA#32 ∧
       s.K[0] = 0x1B02EFFC7072#48) :=
  ⟨by decide, by decide, ⟨rfl, rfl, rfl, _, rfl⟩, ⟨rfl, rfl, rfl, rfl, rfl, rfl⟩⟩

theorem wit_FinDeliversPermutedHalves :
    ((seqAt .fin 0#5).live = true ∧ (seqAt .fin 0#5).pins.rst = false ∧ (seqAt .fin 0#5).PHASE = .fin ∧
      ∃ t, exec .fin (seqAt .fin 0#5) = .next t) ∧
    (((seqAt .fin 0#5).setHalves 0x43423234#32 0x0A4CD995#32).L = 0x43423234#32) := ⟨⟨rfl, rfl, rfl, _, rfl⟩, rfl⟩

theorem wit_RoundIndexOutsideRangeIsRefused :
    (0#5 : BitVec 5).toNat = 0 ∧ 17 ≤ (17#5 : BitVec 5).toNat ∧ 17 ≤ (31#5 : BitVec 5).toNat := by decide

theorem wit_MicroStepsWriteOnlyTheirRegisters (s : State) :
    (∃ t, exec .rst s = .next t) ∧ (∃ t, exec .nop s = .next t) ∧ (∃ t, exec (.enc 0#64 0#64) s = .next t) ∧
      (∃ t, exec (.dec 0#64 0#64) s = .next t) ∧ (∃ t, exec (.ks 1#5) s = .next t) ∧ (∃ t, exec (.ks 16#5) s = .next t) ∧
      (∃ t, exec (.rnd 1#5) s = .next t) ∧ (∃ t, exec (.rnd 16#5) s = .next t) ∧ (∃ t, exec .fin s = .next t) :=
  ⟨⟨_, rfl⟩, ⟨_, rfl⟩, ⟨_, rfl⟩, ⟨_, rfl⟩, ⟨_, rfl⟩, ⟨_, rfl⟩, ⟨_, rfl⟩, ⟨_, rfl⟩, ⟨_, rfl⟩⟩

theorem wit_ConfigurationNeverChanges : run 1 State.reset = .next State.reset.nextPins := by
  simp only [run, reset_steps]

/-- The tables of R110's examples, and their entry numbers at both ends. -/
theorem wit_PermuteSelectsListedPositions :
    (∃ t : PermTable 4 4, t.entries = [4, 3, 2, 1]) ∧ (∃ t : PermTable 4 2, t.entries = [4, 1]) ∧
      (∃ t : PermTable 2 3, t.entries = [2, 1, 2]) ∧ tab IP 1 = 58 ∧ tab IP 64 = 7 :=
  ⟨⟨⟨[4, 3, 2, 1], by decide, by decide⟩, rfl⟩, ⟨⟨[4, 1], by decide, by decide⟩, rfl⟩,
    ⟨⟨[2, 1, 2], by decide, by decide⟩, rfl⟩, by decide, by decide⟩

theorem wit_IdentityTablePermutesToItself : ∃ t : PermTable 64 64, t.entries = List.range' 1 64 :=
  ⟨⟨List.range' 1 64, by decide, by decide⟩, rfl⟩

theorem wit_PermutationLaws :
    (∃ t12 : PermTable 64 64, ∀ m, 1 ≤ m → m ≤ 64 → tab t12 m = tab IP (tab FP m)) ∧
    (∀ m, 1 ≤ m → m ≤ 64 → tab FP (tab IP m) = m) ∧ (64 ∉ PC1.entries ∧ 8 ∉ PC1.entries) := by
  have h : ∀ n : Fin 65, 1 ≤ n.val →
      (List.range' 1 64).getD (n.val - 1) 0 = tab IP (tab FP n.val) ∧ tab FP (tab IP n.val) = n.val := by decide +kernel
  exact ⟨⟨⟨List.range' 1 64, by decide, by decide⟩, fun m h1 h2 => (h ⟨m, by omega⟩ h1).1⟩,
    fun m h1 h2 => (h ⟨m, by omega⟩ h1).2, by decide⟩

theorem wit_FinalPermutationInvertsInitial : tab FP (tab IP 1) = 1 ∧ tab FP (tab IP 64) = 64 := by decide

theorem wit_RotationMovesEveryBit :
    (27 + (27 : Fin 28).val) % 28 = 26 ∧ (28 - 1 + (27 : Fin 28).val) % 28 + 1 = 27 ∧ (0 < 28) ∧ (27 < 28) := by decide

theorem wit_RotationsCompose :
    (26 : Fin 28).val = ((27 : Fin 28).val + (27 : Fin 28).val) % 28 ∧ (0 : Fin 28).val = (28 - (0 : Fin 28).val) % 28 ∧
      (1 : Fin 28).val = (28 - (27 : Fin 28).val) % 28 := by decide

theorem wit_KeyHalvesAreCumulativeRotations :
    (0 : Fin 28).val = [0, 1, 2, 4, 6, 8, 10, 12, 14, 15, 17, 19, 21, 23, 25, 27, 28].getD 0 0 % 28 ∧
      (0 : Fin 28).val = [0, 1, 2, 4, 6, 8, 10, 12, 14, 15, 17, 19, 21, 23, 25, 27, 28].getD 16 0 % 28 ∧
      (27 : Fin 28).val = [0, 1, 2, 4, 6, 8, 10, 12, 14, 15, 17, 19, 21, 23, 25, 27, 28].getD 15 0 % 28 := by decide

theorem wit_ScheduleOfKnownKey : (0 : Nat) ≤ 16 ∧ (16 : Nat) ≤ 16 := by decide

theorem wit_ParityBitsHaveNoEffect :
    0x0101010101010101#64 &&& 0xFEFEFEFEFEFEFEFE#64 = 0#64 ∧ 0x0000000000000001#64 &&& 0xFEFEFEFEFEFEFEFE#64 = 0#64 := by
  decide

/-- The two ends of the cyclic expansion, by R135: position 1 of the output is `R`'s position 32, position 48 is 1. -/
theorem wit_ExpansionGroupsOverlap :
    bit (expand 0x00000001#32) 1 = true ∧ bit (expand 0x80000000#32) 48 = true ∧ (0 : Nat) < 8 ∧ (5 : Nat) < 6 := by
  decide +kernel

theorem wit_ReversedSubkeysInvertFeistel (q : RoundKeys) :
    (∃ q' : RoundKeys, ∀ i : Fin 16, q'[i.val] = q[15 - i.val]) ∧ (0 : Nat) ≤ 16 ∧ 16 - 0 ≤ 16 ∧ 16 - 16 ≤ 16 :=
  ⟨⟨Vector.ofFn fun i => q[15 - i.val], fun i => by simp only [Vector.getElem_ofFn]⟩, by decide, by decide, by decide⟩

/-! Hypotheses of the run statements: a ready state, a request, and edges without `rst`, as many as each asks. -/

/-- No further edge, and the last and first edges of each phase: 15 and 16, 31 and 32, 33. -/
theorem wit_CommandLifeFollowsEdgeTable :
    State.reset.ready ∧ ask.requests ∧ ∀ n ∈ [0, 15, 16, 31, 32, 33],
      noReset (List.replicate n Pins.low) ∧ (List.replicate n Pins.low).length = n ∧ n ≤ 33 :=
  ⟨⟨rfl, rfl⟩, ⟨rfl, rfl⟩, fun n hn => ⟨low_noReset n, List.length_replicate, by revert n; decide⟩⟩
theorem wit_CommandDeliversFunctionValue :
    State.reset.ready ∧ ask.requests ∧ noReset (List.replicate 33 Pins.low) ∧ (List.replicate 33 Pins.low).length = 33 :=
  ⟨⟨rfl, rfl⟩, ⟨rfl, rfl⟩, low_noReset 33, by simp⟩
/-- The first edge, the last with `done` = 0, and the one after which `done` = 1. -/
theorem wit_DoneFirstRisesAtLatency :
    State.reset.ready ∧ ask.requests ∧ noReset (List.replicate 33 Pins.low) ∧ (List.replicate 33 Pins.low).length = 33 ∧
      (∀ n ∈ [1, 33, 34], 1 ≤ n ∧ n ≤ 34) ∧ 33 ≠ LATENCY ∧ 34 = LATENCY :=
  ⟨⟨rfl, rfl⟩, ⟨rfl, rfl⟩, low_noReset 33, by simp, by decide, by decide, rfl⟩
/-- A ready state without and with a result; the command accepted just now, at round 16 and before FIN. -/
theorem wit_WaitTakesThirtyThreeNops :
    State.reset.ready ∧ (afterCommand 0#64 0#64).ready ∧ ask.requests ∧ State.reset.DONE = false ∧
      (∀ n ∈ [0, 31, 32], noReset (List.replicate n Pins.low) ∧ (List.replicate n Pins.low).length ≤ 32) ∧
      waitDone 1 (seqAt .fin 0#5) = some (1, (seqAt .fin 0#5).finish.nextPins) :=
  ⟨⟨rfl, rfl⟩, ⟨rfl, rfl⟩, ⟨rfl, rfl⟩, rfl,
    fun n hn => ⟨low_noReset n, by rw [List.length_replicate]; revert n; decide⟩, by
      have h : step ((seqAt .fin 0#5).setPins (HostLine.pins .nop)) = .next (seqAt .fin 0#5).finish.nextPins :=
        step_of_exec (.inl rfl) (by rw [decode_stepWord]; rfl)
      simp only [waitDone, runLines, List.map, runPins, h]
      rfl⟩
theorem wit_AcceptBeginsCarriedCommand :
    (State.reset.setPins ask).ready ∧ (State.reset.setPins ask).pins.requests := ⟨⟨rfl, rfl⟩, ⟨rfl, rfl⟩⟩

/-- One carrying state per phase. -/
theorem wit_EveryStepKeepsCarriedCommand (b : Block) (k : Key) :
    (afterCommand b k).carries false b k ∧ (State.reset.accept true b k).carries true b k ∧
      (atFirstRound b k).carries false b k ∧ (beforeFin b k).carries false b k ∧
      (afterCommand b k).pins.start = false ∧ (afterCommand b k).live = true ∧ (afterCommand b k).pins.rst = false :=
  ⟨⟨rfl, rfl, rfl, ⟨rfl, rfl, rfl⟩, rfl, rfl⟩,
    ⟨0, by omega, rfl, rfl, rfl, rfl, rfl, fun m h => absurd h (by omega), rfl⟩,
    ⟨0, by omega, rfl, rfl, rfl, ⟨rfl, rfl, rfl⟩, rfl⟩, ⟨rfl, rfl, rfl, ⟨rfl, rfl, rfl⟩, rfl⟩, rfl, rfl, rfl⟩

theorem wit_EveryStepKeepsInvariant : State.reset.Inv ∧ step State.reset = .next State.reset.nextPins :=
  ⟨fun _ => ⟨rfl, fun _ => rfl⟩, reset_steps⟩
theorem wit_EveryStepKeepsExplanation (b : Block) (k : Key) :
    (afterCommand b k).explained ∧ (afterCommand b k).live = true ∧ (afterCommand b k).DONE = true ∧
      State.reset.explained ∧ step State.reset = .next State.reset.nextPins :=
  ⟨fun _ => .inr ⟨false, b, k, (wit_EveryStepKeepsCarriedCommand b k).1⟩, rfl, rfl, fun _ => .inl rfl, reset_steps⟩
theorem wit_SafeStatesAlwaysStep :
    (Instr.ks 1#5).wellFormed = true ∧ (Instr.rnd 16#5).wellFormed = true ∧ State.reset.Safe ∧
      (seqAt .ks 16#5).Safe := ⟨by decide, by decide, ⟨rfl, rfl⟩, ⟨rfl, rfl⟩⟩
theorem wit_InputsIgnoredWhileBusy :
    (seqAt .fin 0#5).PHASE ≠ .idle ∧ (seqAt .fin 0#5).pins.rst = false ∧ ask.rst = false ∧
      ∃ t, step (seqAt .fin 0#5) = .next t :=
  ⟨by decide, rfl, rfl, _, step_of_exec (.inl rfl) (by rw [decode_stepWord]; rfl)⟩
theorem wit_ResultDependsOnlyOnOperands :
    State.reset.ready ∧ (afterCommand 1#64 1#64).ready ∧ State.reset.sbox = (afterCommand 1#64 1#64).sbox ∧
      ask.requests ∧ noReset (List.replicate 33 Pins.low) ∧ noReset (List.replicate 33 ask) ∧
      (List.replicate 33 ask).length = 33 :=
  ⟨⟨rfl, rfl⟩, ⟨rfl, rfl⟩, rfl, ⟨rfl, rfl⟩, low_noReset 33,
    fun p hp => by rw [List.eq_of_mem_replicate hp]; rfl, by simp⟩
theorem wit_ResetAbandonsCommand :
    State.reset.ready ∧ ask.requests ∧ noReset (List.replicate 32 Pins.low) ∧ (List.replicate 32 Pins.low).length ≤ 32 ∧
      resetPins.rst = true := ⟨⟨rfl, rfl⟩, ⟨rfl, rfl⟩, low_noReset 32, by simp, rfl⟩
/-- Two commands with different operands, and the numbers of edges where the clauses meet. -/
theorem wit_HeldStartRunsBackToBack :
    let ask' : Pins := { ask with dec := true, block_in := 1#64, key_in := 2#64 }
    let ps := List.replicate 34 ask ++ List.replicate 34 ask'
    State.reset.ready ∧ ps.length = 68 ∧ (∀ p ∈ ps, p.requests) ∧ ps[0]? = some ask ∧ ps[34]? = some ask' ∧
      ∀ n ∈ [1, 33, 34, 35, 67, 68], 1 ≤ n ∧ n ≤ 68 :=
  ⟨⟨rfl, rfl⟩, rfl, by decide, rfl, rfl, by decide⟩
theorem wit_OutputsAreFunctionsOfRegisters :
    State.reset.toRegisters = (State.reset.setPins ask).toRegisters ∧ State.reset.live = true ∧ State.reset.Inv :=
  ⟨rfl, rfl, fun _ => ⟨rfl, fun _ => rfl⟩⟩
theorem wit_ResultIsKeptThroughNops :
    (afterCommand 0#64 0#64).ready ∧ (∀ p ∈ List.replicate 3 Pins.low, p.rst = false ∧ p.start = false) ∧
      ask.requests :=
  ⟨⟨rfl, rfl⟩, fun p hp => by rw [List.eq_of_mem_replicate hp]; exact ⟨rfl, rfl⟩, ⟨rfl, rfl⟩⟩
theorem wit_OutputsDuringAndAfterCommand :
    State.reset.ready ∧ ask.requests ∧ noReset (List.replicate 32 Pins.low) ∧ noReset (List.replicate 33 Pins.low) ∧
      (∀ p ∈ List.replicate 3 Pins.low, p.rst = false ∧ p.start = false) ∧ (List.replicate 32 Pins.low).length ≤ 32 ∧
      (List.replicate 33 Pins.low).length = 33 :=
  ⟨⟨rfl, rfl⟩, ⟨rfl, rfl⟩, low_noReset 32, low_noReset 33,
    fun p hp => by rw [List.eq_of_mem_replicate hp]; exact ⟨rfl, rfl⟩, by simp, by simp⟩
theorem wit_SelftestReportsRoundTrip : State.reset.ready := ⟨rfl, rfl⟩
theorem wit_InstancesAreIndependent :
    let sys : System 2 := #v[State.reset, seqAt .fin 0#5]
    let sys' : System 2 := #v[State.reset, State.reset]
    let ck : Vector Bool 2 := #v[true, false]
    sys[(0 : Fin 2).val] = sys'[(0 : Fin 2).val] ∧ ck[(0 : Fin 2).val] = true ∧ ck[(1 : Fin 2).val] = false :=
  ⟨rfl, rfl, rfl⟩

/-- The spec's configuration, as raw lists. -/
def goodConfig : RawConfig := Tables.raw ⟨IP, FP, E, P, PC1, PC2, SHIFT, SBOX_STD⟩

/-- A configuration with every table empty does not load, and the spec's does. -/
theorem wit_ConfigurationLoadsExactlyWithoutDefects :
    let bad : RawConfig := ⟨[], [], [], [], [], [], [], []⟩
    bad.load = .error bad.defects ∧ bad.defects ≠ [] ∧ ∃ t, goodConfig.load = .ok t :=
  ⟨rfl, by decide, ⟨⟨IP, FP, E, P, PC1, PC2, SHIFT, SBOX_STD⟩, by decide +kernel⟩⟩

/-- Each name of R186 by one defect at the edge of its range: entry 57 of `PC2`, 63 entries of `IP`, no box, entry 16,
rotation 28. -/
theorem test_defect_names :
    RawConfig.defects { goodConfig with pc2 := 57 :: goodConfig.pc2.tail } = [.permRange] ∧
      RawConfig.defects { goodConfig with ip := goodConfig.ip.tail } = [.permLength] ∧
      RawConfig.defects { goodConfig with sbox := [] } = [.sboxShape] ∧
      RawConfig.defects { goodConfig with sbox := [[16]] :: goodConfig.sbox.tail } = [.sboxShape, .sboxValue] ∧
      RawConfig.defects { goodConfig with shift := 28 :: goodConfig.shift.tail } = [.shiftRange] := by decide +kernel

end Sys2Proof.Tests
end

section
/-! PROOFS. The state family: reset, ports, frames, the S-box tables and the invariant of every specified state. -/

namespace Sys2Proof.Machine

/-! ### The row a step selects, and its effect -/

/-- `rst` = 1 selects RST whatever the state (R176). -/
theorem decode_of_rst {s : State} (h : s.pins.rst = true) : decode (stepWord s) = .rst := by
  rw [decode_stepWord, if_pos h]

/-- An edge with `rst` = 1 is a reset and then the host's next levels (R165). -/
theorem step_of_rst {s : State} (h : s.pins.rst = true) : step s = .next s.resetRegisters.nextPins :=
  step_of_exec (.inr h) (by rw [decode_of_rst h]; rfl)

/-- Before the first reset an edge without `rst` is refused (R56). -/
theorem step_of_not_live {s : State} (hl : s.live = false) (hr : s.pins.rst = false) :
    step s = .refused .beforeFirstReset := by
  simp [step, selectInstr, hl, hr]

/-- Only the KS phase selects the row `KS`, with the field `I` as its round (R91). -/
theorem of_decode_eq_ks {s : State} {n : BitVec 5} (h : decode (stepWord s) = .ks n) : s.PHASE = .ks ∧ s.I = n := by
  have hr : ¬s.pins.rst = true := fun hr => by simp [decode_of_rst hr] at h
  rw [decode_stepWord, if_neg hr] at h
  cases hp : s.PHASE <;> simp only [hp] at h
  case idle => split_ifs at h
  case ks => injection h with hi; exact ⟨rfl, hi⟩
  case rnd => cases h
  case fin => cases h

/-- Only the RND phase selects the row `RND`, with the field `I` as its round (R91). -/
theorem of_decode_eq_rnd {s : State} {n : BitVec 5} (h : decode (stepWord s) = .rnd n) : s.PHASE = .rnd ∧ s.I = n := by
  have hr : ¬s.pins.rst = true := fun hr => by simp [decode_of_rst hr] at h
  rw [decode_stepWord, if_neg hr] at h
  cases hp : s.PHASE <;> simp only [hp] at h
  case idle => split_ifs at h
  case rnd => injection h with hi; exact ⟨rfl, hi⟩
  case ks => cases h
  case fin => cases h

/-- Only RST writes the power-up mark. -/
theorem exec_next_live {i : Instr} {s t : State} (h : exec i s = .next t) (hi : i ≠ .rst) : t.live = s.live := by
  rcases exec_next_cases h with ⟨rfl, _⟩ | ⟨_, rfl⟩ | ⟨b, k, _, rfl⟩ | ⟨b, k, _, rfl⟩ | ⟨n, r, _, _, rfl⟩ |
    ⟨n, r, _, _, rfl⟩ | ⟨_, rfl⟩
  · exact absurd rfl hi
  · rfl
  · rfl
  · rfl
  · exact State.keyStep_live s r
  · exact State.feistelStep_live s r
  · rfl

/-! ### The invariant (R36, R39) -/

/-- `I` = 0 is legal in IDLE and in FIN (R36). -/
theorem Registers.seqLegal_of_I_eq_zero {s : Registers} (hp : s.PHASE = .idle ∨ s.PHASE = .fin) (hi : s.I = 0#5) :
    s.seqLegal = true := by
  rcases hp with hp | hp <;> simp [Registers.seqLegal, hp, hi]

/-- The number of a round is legal in KS and in RND (R36). -/
theorem Registers.seqLegal_of_round {s : Registers} (hp : s.PHASE = .ks ∨ s.PHASE = .rnd) (r : Round)
    (hi : s.I.toNat = roundNumber r) : s.seqLegal = true := by
  have hr : isRoundIndex s.I = true := by
    have := r.isLt
    simp only [isRoundIndex, hi, roundNumber, ROUNDS, Bool.and_eq_true, decide_eq_true_eq]
    omega
  rcases hp with hp | hp <;> simp [Registers.seqLegal, hp, hr]

/-- The invariant speaks of the registers and the power-up mark, which the host's side of an edge leaves alone. -/
theorem State.Inv.nextPins {s : State} (h : s.Inv) : s.nextPins.Inv := by
  simpa only [State.Inv, State.nextPins_toRegisters, State.nextPins_live] using h

/-- The reset values meet the invariant. -/
theorem State.inv_of_zero {s : State} (h : s.toRegisters = Registers.zero) : s.Inv := by
  intro _
  rw [h]
  exact ⟨rfl, fun _ => rfl⟩

/-- A legal sequencing state with `DONE` = 0 meets the invariant in any phase. -/
theorem State.inv_of_not_done {s : State} (hq : s.seqLegal = true) (hd : s.DONE = false) : s.Inv :=
  fun _ => ⟨hq, fun h => absurd (hd.symm.trans h) Bool.false_ne_true⟩

/-- While a specified state is busy, `DONE` is 0 (R39). -/
theorem State.Inv.done_eq_false {s : State} (h : s.Inv) (hl : s.live = true) (hp : s.PHASE ≠ .idle) :
    s.DONE = false :=
  Bool.eq_false_iff.mpr fun hd => hp ((h hl).2 hd)

theorem State.accept_inv (s : State) (dec : Bool) (block : Block) (key : Key) : (s.accept dec block key).Inv :=
  State.inv_of_not_done (Registers.seqLegal_of_round (.inl rfl) 0 rfl) rfl

theorem State.finish_inv (s : State) : s.finish.Inv :=
  fun _ => ⟨Registers.seqLegal_of_I_eq_zero (.inl rfl) rfl, fun _ => rfl⟩

/-- `KS` goes on to the next round or hands over to (RND, 1). -/
theorem State.keyStep_seqLegal {s : State} (hp : s.PHASE = .ks) (r : Round) : (s.keyStep r).seqLegal = true := by
  rcases Nat.lt_or_eq_of_le (Nat.le_of_lt_succ r.isLt) with hr | hr
  · obtain ⟨hph, hi⟩ := s.keyStep_seq_of_lt hr
    exact Registers.seqLegal_of_round (.inl (hph.trans hp)) ⟨r.val + 1, by omega⟩ hi
  · obtain ⟨hph, hi⟩ := s.keyStep_seq_of_eq hr
    exact Registers.seqLegal_of_round (.inr hph) 0 (by rw [hi]; rfl)

/-- `KS` keeps the invariant in its own phase, where `DONE` is 0. -/
theorem State.Inv.keyStep {s : State} (h : s.Inv) (hp : s.PHASE = .ks) (r : Round) : (s.keyStep r).Inv := by
  intro hl
  have hd : s.DONE = false := h.done_eq_false (s.keyStep_live r ▸ hl) (by simp [hp])
  exact State.inv_of_not_done (State.keyStep_seqLegal hp r) ((s.keyStep_DONE r).trans hd) hl

/-- `RND` goes on to the next round or hands over to (FIN, 0). -/
theorem State.feistelStep_seqLegal {s : State} (hp : s.PHASE = .rnd) (r : Round) :
    (s.feistelStep r).seqLegal = true := by
  rcases Nat.lt_or_eq_of_le (Nat.le_of_lt_succ r.isLt) with hr | hr
  · obtain ⟨hph, hi⟩ := s.feistelStep_seq_of_lt hr
    exact Registers.seqLegal_of_round (.inr (hph.trans hp)) ⟨r.val + 1, by omega⟩ hi
  · obtain ⟨hph, hi⟩ := s.feistelStep_seq_of_eq hr
    exact Registers.seqLegal_of_I_eq_zero (.inr hph) hi

/-- `RND` keeps the invariant in its own phase, where `DONE` is 0. -/
theorem State.Inv.feistelStep {s : State} (h : s.Inv) (hp : s.PHASE = .rnd) (r : Round) : (s.feistelStep r).Inv := by
  intro hl
  have hd : s.DONE = false := h.done_eq_false (s.feistelStep_live r ▸ hl) (by simp [hp])
  exact State.inv_of_not_done (State.feistelStep_seqLegal hp r) ((s.feistelStep_DONE r).trans hd) hl

/-- The decoded instruction keeps the invariant: `KS` and `RND` are decoded in their own phase only. -/
theorem exec_decode_keeps_inv {s t : State} (hs : s.Inv) (h : exec (decode (stepWord s)) s = .next t) : t.Inv := by
  rcases exec_next_cases h with ⟨_, rfl⟩ | ⟨_, rfl⟩ | ⟨b, k, _, rfl⟩ | ⟨b, k, _, rfl⟩ | ⟨n, r, hd, _, rfl⟩ |
    ⟨n, r, hd, _, rfl⟩ | ⟨_, rfl⟩
  · exact State.inv_of_zero rfl
  · exact hs
  · exact s.accept_inv false b k
  · exact s.accept_inv true b k
  · exact hs.keyStep (of_decode_eq_ks hd).1 r
  · exact hs.feistelStep (of_decode_eq_rnd hd).1 r
  · exact s.finish_inv

/-- Settles O47: a step is the decoded instruction, which keeps the invariant, and the host's side of the edge. -/
theorem everyStepKeepsInvariant : Obligations.EveryStepKeepsInvariant := by
  intro s t hs h
  obtain ⟨-, u, hu, rfl⟩ := step_next_cases h
  exact (exec_decode_keeps_inv hs hu).nextPins

/-! ### The host's side: ports, script and edge count (log 2) -/

/-- The same machine with another host: other levels on the ports, another script, another edge count. -/
def State.withHost (s : State) (p : Pins) (ps : List Pins) (e : Nat) : State :=
  { s with pins := p, drive := ps, edge := e }

theorem State.keyStep_withHost (s : State) (r : Round) (p : Pins) (ps : List Pins) (e : Nat) :
    (s.withHost p ps e).keyStep r = (s.keyStep r).withHost p ps e := by
  unfold State.keyStep; dsimp only; split <;> rfl

theorem State.feistelStep_withHost (s : State) (r : Round) (p : Pins) (ps : List Pins) (e : Nat) :
    (s.withHost p ps e).feistelStep r = (s.feistelStep r).withHost p ps e := by
  unfold State.feistelStep; dsimp only; split <;> rfl

/-- An instruction reads and writes nothing of the host's side. -/
theorem exec_withHost {i : Instr} {s t : State} (h : exec i s = .next t) (p : Pins) (ps : List Pins) (e : Nat) :
    exec i (s.withHost p ps e) = .next (t.withHost p ps e) := by
  rcases exec_next_cases h with ⟨rfl, rfl⟩ | ⟨rfl, rfl⟩ | ⟨b, k, rfl, rfl⟩ | ⟨b, k, rfl, rfl⟩ | ⟨n, r, rfl, hr, rfl⟩ |
    ⟨n, r, rfl, hr, rfl⟩ | ⟨rfl, rfl⟩
  · rfl
  · rfl
  · rfl
  · rfl
  · simp only [exec, execKs, hr, State.keyStep_withHost]
  · simp only [exec, execRnd, hr, State.feistelStep_withHost]
  · rfl

/-- An edge at which the host drives `p` has the same effect on the machine whatever is scripted after it. -/
theorem step_withHost {s t : State} {p : Pins} (h : step (s.setPins p) = .next t) (ps : List Pins) (e : Nat) :
    step (s.withHost p ps e) = .next (t.withHost p ps e).nextPins := by
  obtain ⟨hl, u, hu, rfl⟩ := step_next_cases h
  have ht : u.nextPins.withHost p ps e = u.withHost p ps e :=
    State.ext_parts u.nextPins_toRegisters u.nextPins_sbox rfl rfl rfl u.nextPins_live
  rw [ht]
  exact step_of_exec hl (exec_withHost hu p ps e)

/-- The first scripted levels go on the ports. -/
theorem State.nextPins_withHost_cons (s : State) (p q : Pins) (qs : List Pins) (e : Nat) :
    (s.withHost p (q :: qs) e).nextPins = s.withHost q qs (e + 1) := rfl

/-- A script on the ports and in `drive`, run freely, does what driving its levels edge by edge does (R100). -/
theorem run_withHost {p : Pins} {ps : List Pins} {s t : State} (h : runPins (p :: ps) s = .next t) (e : Nat) :
    ∃ u, run (ps.length + 1) (s.withHost p ps e) = .next u ∧
      u.toRegisters = t.toRegisters ∧ u.sbox = t.sbox ∧ u.live = t.live := by
  induction ps generalizing p s e with
  | nil =>
    simp only [runPins] at h
    split at h
    · rename_i v hv
      injection h with h
      subst h
      refine ⟨(v.withHost p [] e).nextPins, by simp only [List.length_nil, run, step_withHost hv [] e], ?_⟩
      exact ⟨State.nextPins_toRegisters _, State.nextPins_sbox _, State.nextPins_live _⟩
    · cases h
    · cases h
  | cons q qs ih =>
    rw [runPins] at h
    split at h
    · rename_i v hv
      obtain ⟨u, hu, hparts⟩ := ih h (e + 1)
      refine ⟨u, ?_, hparts⟩
      rw [run, step_withHost hv (q :: qs) e, State.nextPins_withHost_cons]
      exact hu
    · cases h
    · cases h

/-- A program scripted into the state does to the machine what driving its lines does. -/
theorem run_script {ls : List HostLine} {s t : State} (h : runLines ls s = .next t) :
    ∃ u, run ls.length (s.script ls) = .next u ∧ u.toRegisters = t.toRegisters ∧ u.sbox = t.sbox ∧ u.live = t.live := by
  cases ls with
  | nil => injection h with h; subst h; exact ⟨s, rfl, rfl, rfl, rfl⟩
  | cons l ls =>
    obtain ⟨u, hu, hparts⟩ := run_withHost h s.edge
    rw [List.length_map] at hu
    exact ⟨u, hu, hparts⟩

/-- Past the end of the script the ports carry the free levels of the edge (U13). -/
theorem State.nextPins_of_drive_nil {s : State} (h : s.drive = []) :
    s.nextPins = { s with pins := Pins.ofBits (Config.freePins s.edge), edge := s.edge + 1 } := by
  unfold State.nextPins; rw [h]

/-- Settles O8: an instruction leaves the host's side alone, and then `nextPins` takes the script's next levels. -/
theorem portsFollowHostScript : Obligations.PortsFollowHostScript := by
  refine ⟨fun s t h => ?_, fun ls s t h => run_script h⟩
  obtain ⟨-, u, hu, rfl⟩ := step_next_cases h
  obtain ⟨-, -, hdrive, hedge, -⟩ := exec_next_host hu
  rw [← hdrive, ← hedge]
  refine ⟨u.nextPins_edge, fun p ps hd => ?_, fun hd => ?_⟩
  · rw [State.nextPins_of_drive hd]; exact ⟨rfl, rfl⟩
  · rw [State.nextPins_of_drive_nil hd]; exact ⟨rfl, hd⟩

/-! ### Reset (R55, R56, R165) -/

/-- Settles O7: an edge without `rst` is refused, one with `rst` is a reset. -/
theorem powerUpStateTakesOnlyReset : Obligations.PowerUpStateTakesOnlyReset := by
  refine fun s hl => ⟨step_of_not_live hl, fun hr => ⟨_, step_of_rst hr, ?_⟩⟩
  simp only [State.nextPins_live, State.nextPins_toRegisters, State.nextPins_sbox, State.resetRegisters_live,
    State.resetRegisters_toRegisters, State.resetRegisters_sbox, and_self]

/-- Every entry of the round-key file is 0 after reset. -/
theorem Registers.zero_K_getElem (m : Fin 16) : Registers.zero.K[m.val] = 0#48 := Vector.getElem_replicate m.isLt

/-- A second reset changes nothing. -/
theorem State.resetRegisters_idem (s : State) : s.resetRegisters.resetRegisters = s.resetRegisters := rfl

/-- Settles O9: the reset values are `Registers.zero`, and a reset writes nothing else but `live`. -/
theorem resetClearsEveryRegister : Obligations.ResetClearsEveryRegister := by
  constructor
  · intro s
    refine ⟨s.resetRegisters, rfl, rfl, rfl, rfl, rfl, rfl, rfl, rfl, Registers.zero_K_getElem, rfl, rfl, rfl, rfl, rfl,
      rfl, rfl, rfl, rfl, rfl, ?_⟩
    exact congrArg Host.Outcome.next s.resetRegisters_idem
  · intro s t hr ht
    exact step_of_exec (.inr hr) (by rw [decode_of_rst hr, ht])

/-- Settles O49: the reset state's registers are the reset values, which meet the invariant. -/
theorem resetMeetsInvariants : Obligations.ResetMeetsInvariants :=
  ⟨State.inv_of_zero rfl, fun _ => .inl rfl, ⟨rfl, rfl⟩, ⟨rfl, rfl⟩, rfl, rfl⟩

/-! ### Frames (R30, R43) -/

/-- `KS` for round `r` writes no other entry of the round-key file. -/
theorem State.keyStep_K_getElem_of_ne (s : State) {r : Round} {m : Fin 16} (h : m.val ≠ r.val) :
    (s.keyStep r).K[m.val] = s.K[m.val] := by
  simp only [State.keyStep_K]
  exact Vector.getElem_set_ne _ _ (Ne.symm h)

/-- Settles O16: the host's side from `exec_next_host`, and each instruction's frame from the lemmas of its update. -/
theorem microStepsWriteOnlyTheirRegisters : Obligations.MicroStepsWriteOnlyTheirRegisters := by
  intro i s t h
  obtain ⟨hsbox, hpins, hdrive, hedge, -⟩ := exec_next_host h
  refine ⟨hsbox, hpins, hdrive, hedge, exec_next_live h, ?_⟩
  rcases exec_next_cases h with ⟨rfl, rfl⟩ | ⟨rfl, rfl⟩ | ⟨b, k, rfl, rfl⟩ | ⟨b, k, rfl, rfl⟩ | ⟨n, r, rfl, hr, rfl⟩ |
    ⟨n, r, rfl, hr, rfl⟩ | ⟨rfl, rfl⟩
  · trivial
  · rfl
  · exact ⟨rfl, rfl⟩
  · exact ⟨rfl, rfl⟩
  · refine ⟨s.keyStep_DEC r, s.keyStep_L r, s.keyStep_R r, s.keyStep_OUT r, s.keyStep_DONE r, fun m hm => ?_⟩
    have hn : n.toNat = r.val + 1 := (roundOf_eq_some_iff n r).mp hr
    exact s.keyStep_K_getElem_of_ne (by omega)
  · exact ⟨s.feistelStep_DEC r, s.feistelStep_C r, s.feistelStep_D r, s.feistelStep_K r, s.feistelStep_OUT r,
      s.feistelStep_DONE r⟩
  · exact ⟨rfl, rfl, rfl, rfl, rfl, rfl⟩

/-! ### The S-box tables (R52, R53) -/

/-- Every 4-bit value stands in every row of every standard box: with sixteen columns, each row is a permutation. -/
theorem exists_col_SBOX_STD (j : Fin 8) (r : BitVec 2) (v : Nibble) : ∃ c, SBOX_STD.entry j r c = v := by
  revert j r v
  decide +kernel

/-- All eight boxes of the replicated variant are its table. -/
theorem SBOX_REP_box (t : SBoxTable) : (SBOX_REP t).box = Vector.replicate 8 t := rfl

/-- Settles O32: the rows by evaluation over the eight boxes, the replicated boxes by their being one table. -/
theorem standardAndReplicatedBoxes : Obligations.StandardAndReplicatedBoxes :=
  ⟨exists_col_SBOX_STD, fun t j r c => by simp only [SBox.entry, SBOX_REP_box, Vector.getElem_replicate]⟩

/-! ### The outputs (R39) -/

theorem busy_eq_true_iff (s : State) : busy s = true ↔ s.PHASE ≠ .idle := by simp [busy]

/-- `busy` and `done` are not both 1 in a specified state that meets the invariant. -/
theorem State.Inv.not_busy_and_done {s : State} (h : s.Inv) (hl : s.live = true) :
    ¬(busy s = true ∧ done s = true) := by
  rintro ⟨hb, hd⟩
  exact (busy_eq_true_iff s).mp hb ((h hl).2 hd)

/-- Settles O55: each output reads one register. -/
theorem outputsAreFunctionsOfRegisters : Obligations.OutputsAreFunctionsOfRegisters := by
  refine ⟨fun s => ⟨busy_eq_true_iff s, rfl, rfl⟩, fun s s' h => ?_, fun s hl hi => hi.not_busy_and_done hl,
    fun s => ⟨rfl, rfl⟩⟩
  simp only [busy, done, blockOut, h, and_self]

end Sys2Proof.Machine
end

section
/-! PROOFS. The memory family: the layout of the S-box ROM (R73). -/

namespace Sys2Proof.Machine

/-! ### The fields of a ROM address -/

/-- The low six bits hold row and column, so the box number stands above them. -/
theorem romAddr_box (j : Fin 8) (r : BitVec 2) (c : BitVec 4) : (romAddr j r c).extractLsb' 6 3 = BitVec.ofFin j := by
  have hjr : (romAddr j r c).extractLsb' 6 3 = (BitVec.ofFin (w := 3) j ++ r).extractLsb' 2 3 :=
    BitVec.extractLsb'_append_eq_of_le (w := 4) (start := 6) (by decide)
  rw [hjr, BitVec.extractLsb'_append_eq_left]

theorem romAddr_row (j : Fin 8) (r : BitVec 2) (c : BitVec 4) : (romAddr j r c).extractLsb' 4 2 = r := by
  have hjr : (romAddr j r c).extractLsb' 4 2 = (BitVec.ofFin (w := 3) j ++ r).extractLsb' 0 2 :=
    BitVec.extractLsb'_append_eq_of_le (w := 4) (start := 4) (by decide)
  rw [hjr, BitVec.extractLsb'_append_eq_right]

theorem romAddr_col (j : Fin 8) (r : BitVec 2) (c : BitVec 4) : (romAddr j r c).extractLsb' 0 4 = c :=
  BitVec.extractLsb'_append_eq_right

/-- The layout is row-major: each box takes 64 entries and each row 16. -/
theorem romAddr_toNat (j : Fin 8) (r : BitVec 2) (c : BitVec 4) :
    (romAddr j r c).toNat = 64 * j.val + 16 * r.toNat + c.toNat := by
  have hjr : (BitVec.ofFin (w := 3) j ++ r).toNat = j.val * 4 + r.toNat := by
    rw [BitVec.toNat_append, ← Nat.shiftLeft_add_eq_or_of_lt r.isLt, Nat.shiftLeft_eq]; rfl
  calc (romAddr j r c).toNat
      = (BitVec.ofFin (w := 3) j ++ r).toNat * 16 + c.toNat := by
        rw [romAddr, BitVec.toNat_append, ← Nat.shiftLeft_add_eq_or_of_lt c.isLt, Nat.shiftLeft_eq]
    _ = 64 * j.val + 16 * r.toNat + c.toNat := by rw [hjr]; omega

/-- Assembling an address from its own fields gives it back, so no address lies outside the 512 entries (R54). -/
theorem romAddr_fields (a : RomAddr) :
    romAddr (a.extractLsb' 6 3).toFin (a.extractLsb' 4 2) (a.extractLsb' 0 4) = a := by
  have hjr : a.extractLsb' 6 3 ++ a.extractLsb' 4 2 = a.extractLsb' 4 5 :=
    BitVec.extractLsb'_append_extractLsb'_eq_extractLsb' rfl
  calc romAddr (a.extractLsb' 6 3).toFin (a.extractLsb' 4 2) (a.extractLsb' 0 4)
      = (a.extractLsb' 6 3 ++ a.extractLsb' 4 2) ++ a.extractLsb' 0 4 := rfl
    _ = a.extractLsb' 4 5 ++ a.extractLsb' 0 4 := by rw [hjr]
    _ = a := BitVec.extractLsb'_append_extractLsb'

/-! ### The lanes of the S-box array -/

/-- A lane reads what box `j`, indexed by the chunk itself, holds (R73, R139). -/
theorem sboxLane_eq_lut (t : SBox) (x : Subkey) (j : Fin 8) : sboxLane t x j = lut t j (chunk x j) :=
  readRom_romAddr t j _ _

/-- Settles O31: the address's value and fields, its assembly from them, and the ROM read through `readRom_romAddr`. -/
theorem romAddressSelectsEntry : Obligations.RomAddressSelectsEntry :=
  ⟨fun t j r c => ⟨romAddr_toNat j r c, romAddr_box j r c, romAddr_row j r c, romAddr_col j r c,
      readRom_romAddr t j r c⟩,
    fun a => ⟨_, _, _, (romAddr_fields a).symm⟩, sboxLane_eq_lut, fun _ _ _ => rfl⟩

end Sys2Proof.Machine
end

section
/-! PROOFS. The encoding family: the decoder, the opcode table and the step word (R90, R91, R99), and the rounds that the
field `I` names (R96, R97). -/

namespace Sys2Proof

/-! ### Decoding and encoding (R91, R99) -/

/-- Whatever the unexamined bits, the row and the operands are read back. -/
theorem decode_encodeWith (fill : StepWord) (i : Instr) : decode (encodeWith fill i) = i := by
  cases i <;> exact decode_pack _

/-- Every 2-bit field is the code of a phase (R36). -/
theorem Phase.exists_code_eq (c : BitVec 2) : ∃ p : Phase, p.code = c := ⟨Phase.ofCode c, Phase.code_ofCode c⟩

/-- A row writes the examined bits and its operands as they were, and takes the others from the word itself. -/
theorem encodeWith_instr (f : StepFields) : encodeWith f.pack f.instr = f.pack := by
  obtain ⟨rst, phase, i, start, dec, block, key⟩ := f
  obtain ⟨p, rfl⟩ := Phase.exists_code_eq phase
  unfold encodeWith
  rw [StepFields.unpack_pack]
  cases rst
  case true => rfl
  case false =>
    cases p
    case idle => cases start <;> cases dec <;> rfl
    case ks => rfl
    case rnd => rfl
    case fin => rfl

theorem encodeWith_decode (w : StepWord) : encodeWith w (decode w) = w := by
  have h := encodeWith_instr (StepFields.unpack w)
  rwa [StepFields.pack_unpack] at h

/-- Settles O2: through the fields of the step word, which determine it and are determined by it. -/
theorem decodeAndEncodeAgree : Obligations.DecodeAndEncodeAgree := ⟨decode_encodeWith, encodeWith_decode⟩

/-! ### The opcode table (R99) -/

namespace Laws.RowMatch

/-- Every instruction's step word selects the row with the instruction's mnemonic. -/
theorem statement (i : Instr) : Statement i :=
  match i with
  | .rst => rst
  | .nop => nop
  | .enc b k => enc b k
  | .dec b k => dec b k
  | .ks n => ks n
  | .rnd n => rnd n
  | .fin => fin

end Laws.RowMatch

/-- The row of the decoded instruction selects the step word. -/
theorem exists_row_of_decode (w : StepWord) :
    ∃ r ∈ opcodeTable, r.mnemonic = (decode w).mnemonic ∧ r.selects w = true := by
  have h := Laws.RowMatch.statement (decode w) w
  rwa [encodeWith_decode] at h

/-- The rows' mnemonics are distinct. -/
theorem opcodeTable_mnemonic_inj : ∀ r ∈ opcodeTable, ∀ r' ∈ opcodeTable, r.mnemonic = r'.mnemonic → r = r' := by
  decide +kernel

/-- Different rows ask for different values of a bit that both examine. -/
theorem opcodeTable_values_differ :
    ∀ r ∈ opcodeTable, ∀ r' ∈ opcodeTable, r.value &&& r'.mask = r'.value &&& r.mask → r = r' := by
  decide +kernel

/-- No step word selects two rows. -/
theorem row_eq_of_selects {w : StepWord} {r r' : OpcodeRow} (hr : r ∈ opcodeTable) (hr' : r' ∈ opcodeTable)
    (h : r.selects w = true) (h' : r'.selects w = true) : r = r' := by
  have hv : w &&& r.mask = r.value := eq_of_beq h
  have hv' : w &&& r'.mask = r'.value := eq_of_beq h'
  refine opcodeTable_values_differ r hr r' hr' ?_
  rw [← hv, ← hv', BitVec.and_assoc, BitVec.and_assoc, BitVec.and_comm r.mask]

/-- Settles O3: the decoded instruction's row selects the word, and neither another row nor another mnemonic does. -/
theorem opcodeTableSelectsExactlyDecodedRow : Obligations.OpcodeTableSelectsExactlyDecodedRow := by
  intro w
  obtain ⟨r₀, hr₀, hm, hs⟩ := exists_row_of_decode w
  have huniq : ∀ r ∈ opcodeTable, r.selects w = true → r = r₀ := fun r hr h => row_eq_of_selects hr hr₀ h hs
  refine ⟨fun r hr => ⟨fun h => ?_, fun h => ?_⟩, r₀, hr₀, hs, huniq⟩
  · rw [huniq r hr h, hm]
  · rw [opcodeTable_mnemonic_inj r hr r₀ hr₀ (h.trans hm.symm)]
    exact hs

/-- Settles O1: the decoder evaluated on the listed words. -/
theorem specStepWordsDecode : Obligations.SpecStepWordsDecode := by
  unfold Obligations.SpecStepWordsDecode
  decide +kernel

/-! ### The step word's bits (R90) -/

/-- A one-bit field is its bit. -/
theorem extractLsb'_one_eq_ofBool {n : Nat} (v : BitVec n) (k : Nat) :
    v.extractLsb' k 1 = BitVec.ofBool (v.getLsbD k) := by
  apply BitVec.eq_of_getLsbD_eq
  intro m hm
  obtain rfl : m = 0 := by omega
  simp

/-- The command record is the low 130 bits, in R90's order. -/
theorem extractLsb'_command (w : StepWord) :
    w.extractLsb' 0 130 =
      BitVec.ofBool (w.getLsbD 129) ++ BitVec.ofBool (w.getLsbD 128) ++ w.extractLsb' 64 64 ++ w.extractLsb' 0 64 := by
  have hflags : w.extractLsb' 129 1 ++ w.extractLsb' 128 1 = w.extractLsb' 128 2 :=
    BitVec.extractLsb'_append_extractLsb'_eq_extractLsb' rfl
  have hblock : w.extractLsb' 128 2 ++ w.extractLsb' 64 64 = w.extractLsb' 64 66 :=
    BitVec.extractLsb'_append_extractLsb'_eq_extractLsb' rfl
  have hkey : w.extractLsb' 64 66 ++ w.extractLsb' 0 64 = w.extractLsb' 0 130 :=
    BitVec.extractLsb'_append_extractLsb'_eq_extractLsb' rfl
  rw [← hkey, ← hblock, ← hflags, extractLsb'_one_eq_ofBool, extractLsb'_one_eq_ofBool]

/-- The four fields that R91's rows examine determine the row. -/
theorem StepFields.mnemonic_instr_congr {f g : StepFields} (hr : f.rst = g.rst) (hp : f.phase = g.phase)
    (hs : f.start = g.start) (hd : f.dec = g.dec) : f.instr.mnemonic = g.instr.mnemonic := by
  unfold StepFields.instr
  rw [hr, hp, hs, hd]
  cases g.rst
  case true => rfl
  case false =>
    cases Phase.ofCode g.phase
    case idle => cases g.start <;> cases g.dec <;> rfl
    case ks => rfl
    case rnd => rfl
    case fin => rfl

/-- The opcode field, bits 137 to 128, holds everything that selects the row. -/
theorem mnemonic_decode_congr {w w' : StepWord} (h : w.extractLsb' 128 10 = w'.extractLsb' 128 10) :
    (decode w).mnemonic = (decode w').mnemonic := by
  have hbit : ∀ n, n < 10 → w.getLsbD (128 + n) = w'.getLsbD (128 + n) := fun n hn => by
    have hn' := congrArg (·.getLsbD n) h
    simpa [hn] using hn'
  have hphase : w.extractLsb' 135 2 = w'.extractLsb' 135 2 := by
    apply BitVec.eq_of_getLsbD_eq
    intro n hn
    rw [BitVec.getLsbD_extractLsb', BitVec.getLsbD_extractLsb', show 135 + n = 128 + (7 + n) by omega,
      hbit (7 + n) (by omega)]
  exact StepFields.mnemonic_instr_congr (hbit 9 (by decide)) hphase (hbit 1 (by decide)) (hbit 0 (by decide))

end Sys2Proof

namespace Sys2Proof.Machine

/-- Settles O4: the fields by `unpack_stepWord`, the record from its parts, the opcode field by `mnemonic_decode_congr`. -/
theorem stepWordHoldsPortsAndSequencing : Obligations.StepWordHoldsPortsAndSequencing := by
  refine ⟨fun s => ?_, ⟨rfl, rfl, rfl, rfl⟩, fun w w' => mnemonic_decode_congr⟩
  obtain ⟨hrst, hphase, hi, hstart, hdec, hblock, hkey⟩ := StepFields.mk.inj (unpack_stepWord s)
  refine ⟨hrst, hphase, hi, hstart, hdec, hblock, hkey, ?_⟩
  rw [extractLsb'_command, hstart, hdec, hblock, hkey]

/-! ### Stops (R97) and the selection of a subkey (R96, R157) -/

/-- A step stops where the decoded instruction stops. -/
theorem step_of_exec_refused {s : State} {r : Refusal} (h : s.live = true ∨ s.pins.rst = true)
    (he : exec (decode (stepWord s)) s = .refused r) : step s = .refused r := by
  simp only [step, selectInstr_ok h, he]

/-- Settles O5: a step of a specified state, or at an edge with `rst` = 1, runs the decoded instruction. -/
theorem stepRunsDecodedInstruction : Obligations.StepRunsDecodedInstruction :=
  fun _ h => ⟨fun _ he => step_of_exec h he, fun _ he => step_of_exec_refused h he⟩

/-- Settles O15: such an `I` names no round. -/
theorem roundIndexOutsideRangeIsRefused : Obligations.RoundIndexOutsideRangeIsRefused := by
  intro i s h
  have hi : isRoundIndex i = false := by
    simp only [isRoundIndex, ROUNDS, Bool.and_eq_false_iff, decide_eq_false_iff_not]
    omega
  have hn : roundOf i = none := (roundOf_eq_none_iff i).mpr hi
  simp only [exec, execKs, execRnd, hn, and_self]

theorem ksel_false (r : Round) : ksel false r = r := rfl

theorem roundNumber_ksel_true (r : Round) : roundNumber (ksel true r) = 17 - roundNumber r := by
  have := r.isLt
  simp only [ksel, roundNumber, if_true]
  omega

/-- Settles O40: the subkey's number, and the place of the subkey in the command's order. -/
theorem subkeySelectionFollowsDirection : Obligations.SubkeySelectionFollowsDirection := by
  intro r
  have hr : roundNumber r ≤ 17 := by have := r.isLt; simp only [roundNumber]; omega
  refine ⟨ksel_false r, roundNumber_ksel_true r, Nat.succ_pos _, (ksel true r).isLt, ?_,
    fun dec key => keyOrder_getElem dec key r⟩
  rw [roundNumber_ksel_true]
  exact (BitVec.ofNat_sub_ofNat_of_le 17 (roundNumber r) (by omega) hr).symm

end Sys2Proof.Machine
end

section
/-! PROOFS. What commands rest on, said of the functions alone: `FP` and `IP` undo each other (R156), the key halves
return to their start (R126), and the network with the subkeys reversed undoes the network (R155, R172). -/

namespace Sys2Proof.Machine

/-! ### A table and its inverse (R117, R156) -/

/-- Values with the same bit at every DES position are equal. -/
theorem eq_of_bit_eq {w : Nat} {v v' : BitVec w} (h : ∀ p, 1 ≤ p → p ≤ w → bit v p = bit v' p) : v = v' := by
  apply BitVec.eq_of_getMsbD_eq
  intro m hm
  have hp := h (m + 1) (by omega) (by omega)
  rwa [bit_eq_getMsbD v (by omega) (by omega), bit_eq_getMsbD v' (by omega) (by omega)] at hp

/-- The bit of `permute` at DES position `m` is the value's bit at the table's entry `m` (R110). -/
theorem bit_permute {w n : Nat} (t : PermTable w n) (v : BitVec w) {m : Nat} (h1 : 1 ≤ m) (h2 : m ≤ n) :
    bit (permute t v) m = bit v (tab t m) := by
  have hm : m - 1 < t.entries.length := by rw [t.length_eq]; omega
  rw [bit_eq_getMsbD _ h1 h2, getMsbD_permute, tab, List.getD_eq_getElem?_getD, List.getElem?_eq_getElem hm]
  rfl

/-- The entries of a table are positions of its input (R44). -/
theorem tab_mem_range {w n : Nat} (t : PermTable w n) {m : Nat} (h1 : 1 ≤ m) (h2 : m ≤ n) :
    1 ≤ tab t m ∧ tab t m ≤ w := by
  have hm : m - 1 < t.entries.length := by rw [t.length_eq]; omega
  rw [tab, List.getD_eq_getElem?_getD, List.getElem?_eq_getElem hm]
  exact t.in_range _ (List.getElem_mem hm)

/-- A table read through another undoes it when each position leads back to itself. -/
theorem permute_permute_of_tab {w n : Nat} (t : PermTable w n) (u : PermTable n w) (v : BitVec w)
    (h : ∀ m, 1 ≤ m → m ≤ w → tab t (tab u m) = m) : permute u (permute t v) = v := by
  apply eq_of_bit_eq
  intro m h1 h2
  obtain ⟨hu1, hu2⟩ := tab_mem_range u h1 h2
  rw [bit_permute u _ h1 h2, bit_permute t v hu1 hu2, h m h1 h2]

/-- `FP` and `IP` lead each position back to itself, in either order (R156). -/
theorem tab_IP_tab_FP (m : Nat) (h1 : 1 ≤ m) (h2 : m ≤ 64) : tab IP (tab FP m) = m := by
  interval_cases m <;> rfl

theorem tab_FP_tab_IP (m : Nat) (h1 : 1 ≤ m) (h2 : m ≤ 64) : tab FP (tab IP m) = m := by
  interval_cases m <;> rfl

@[simp] theorem fperm_iperm (v : Block) : fperm (iperm v) = v := permute_permute_of_tab IP FP v tab_IP_tab_FP

@[simp] theorem iperm_fperm (v : Block) : iperm (fperm v) = v := permute_permute_of_tab FP IP v tab_FP_tab_IP

/-! ### The halves of a block (R13, R150, R152) -/

@[simp] theorem hi32_append (l r : Half) : hi32 (l ++ r) = l := BitVec.extractLsb'_append_eq_left

@[simp] theorem lo32_append (l r : Half) : lo32 (l ++ r) = r := BitVec.extractLsb'_append_eq_right

@[simp] theorem hi32_append_lo32 (v : Block) : hi32 v ++ lo32 v = v := BitVec.extractLsb'_append_extractLsb'

/-- Splitting what FIN delivers gives the last pair, exchanged. -/
theorem ipSplit_fperm_combine (lr : Half × Half) : ipSplit (fperm (combine lr.1 lr.2)) = lr.swap := by
  simp only [ipSplit, combine, iperm_fperm, hi32_append, lo32_append, Prod.swap]

/-- Delivering an exchanged first pair gives the block it was split from. -/
theorem fperm_combine_swap_ipSplit (b : Block) :
    fperm (combine (ipSplit b).swap.1 (ipSplit b).swap.2) = b := by
  simp only [ipSplit, combine, Prod.swap, hi32_append_lo32, fperm_iperm]

/-! ### The network and its inverse (R151, R155, R172) -/

/-- A round on the exchanged result of a round gives the pair before it, exchanged. -/
theorem feistelRound_swap (t : SBox) (lr : Half × Half) (k : Subkey) :
    feistelRound t (feistelRound t lr k).swap k = lr.swap := by
  simp only [feistelRound, Prod.swap, BitVec.xor_assoc, BitVec.xor_self, BitVec.xor_zero]

section
variable {q q' : RoundKeys} (hq : ∀ i : Fin 16, q'[i.val] = q[15 - i.val])
include hq

/-- The second pass, with the subkeys reversed, walks back through the pairs of the first, exchanged (R155). -/
theorem pairAfter_reversed (t : SBox) (lr : Half × Half) (n : Nat) (h : n ≤ 16) :
    pairAfter t (pairAfter t lr q 16 (Nat.le_refl 16)).swap q' n h =
      (pairAfter t lr q (16 - n) (Nat.sub_le 16 n)).swap := by
  induction n with
  | zero => rfl
  | succ n ih =>
    have hlast : pairAfter t lr q (16 - n) (Nat.sub_le 16 n) =
        feistelRound t (pairAfter t lr q (16 - (n + 1)) (Nat.sub_le _ _)) q[15 - n] := by
      have hn : 16 - n = 15 - n + 1 := by omega
      simp only [hn, pairAfter, Nat.reduceSubDiff]
    have hkey : q'[n] = q[15 - n] := hq ⟨n, h⟩
    rw [pairAfter, ih (Nat.le_of_succ_le h), hlast, hkey, feistelRound_swap]

/-- The network with the subkeys reversed undoes the network (R155). -/
theorem feistel_reversed (t : SBox) (b : Block) : feistel t (feistel t b q) q' = b := by
  have hsplit : ipSplit (feistel t b q) = (pairAfter t (ipSplit b) q 16 (Nat.le_refl 16)).swap :=
    ipSplit_fperm_combine _
  have hback : pairAfter t (ipSplit (feistel t b q)) q' 16 (Nat.le_refl 16) = (ipSplit b).swap := by
    rw [hsplit, pairAfter_reversed hq]
    rfl
  calc feistel t (feistel t b q) q'
      = fperm (combine (ipSplit b).swap.1 (ipSplit b).swap.2) := by rw [feistel, hback]
    _ = b := fperm_combine_swap_ipSplit b

end

theorem reversedKeys_getElem (q : RoundKeys) (i : Fin 16) : (reversedKeys q)[i.val] = q[15 - i.val] := by
  have hi : i.rev.val = 15 - i.val := by rw [Fin.val_rev]; omega
  simp only [reversedKeys, Vector.getElem_ofFn, hi]

/-- `decrypt` undoes `encrypt` (R172). -/
theorem decrypt_encrypt (t : SBox) (b : Block) (key : Key) : decrypt t (encrypt t b key) key = b :=
  feistel_reversed (reversedKeys_getElem (generateSubkeys key)) t b

/-! ### The key halves return to their start (R122, R126) -/

theorem rotl28_eq_rotateLeft (x : KeyHalf) (n : Fin 28) : rotl28 x n = x.rotateLeft n.val := by
  rw [BitVec.rotateLeft_def, Nat.mod_eq_of_lt n.isLt, rotl28]

@[simp] theorem rotl28_zero (x : KeyHalf) : rotl28 x 0 = x := by
  apply BitVec.eq_of_getMsbD_eq
  intro m hm
  simp [rotl28_eq_rotateLeft, BitVec.getMsbD_rotateLeft, hm, Nat.mod_eq_of_lt hm]

/-- Rotations compose by adding the amounts modulo 28 (R122). -/
theorem rotl28_rotl28 (x : KeyHalf) (a b : Fin 28) : rotl28 (rotl28 x a) b = rotl28 x (a + b) := by
  apply BitVec.eq_of_getMsbD_eq
  intro m hm
  have hab : (a.val + (b.val + m) % 28) % 28 = ((a + b).val + m) % 28 := by rw [Fin.val_add]; omega
  have hlt : (b.val + m) % 28 < 28 := Nat.mod_lt _ (by decide)
  simp only [rotl28_eq_rotateLeft, BitVec.getMsbD_rotateLeft, hm, hlt, hab, decide_true, Bool.true_and]

/-- The cumulative amount of the first `n` rotations, modulo 28 (R123). -/
def rotationAfter : (n : Nat) → n ≤ 16 → Fin 28
  | 0, _ => 0
  | n + 1, h => rotationAfter n (Nat.le_of_succ_le h) + shiftOf ⟨n, h⟩

/-- (C_n, D_n) are (C_0, D_0) rotated by the cumulative amount (R123). -/
theorem halvesAfter_eq_rotl28 (key : Key) (n : Nat) (h : n ≤ 16) :
    halvesAfter key n h =
      (rotl28 (pc1Split key).1 (rotationAfter n h), rotl28 (pc1Split key).2 (rotationAfter n h)) := by
  induction n with
  | zero => simp only [halvesAfter, rotationAfter, rotl28_zero]
  | succ n ih => simp only [halvesAfter, rotationAfter, ih (Nat.le_of_succ_le h), rotl28_rotl28]

/-- The sixteen amounts add up to 28, so the halves end where they began (R126). -/
theorem halvesAfter_sixteen (key : Key) : halvesAfter key 16 (Nat.le_refl 16) = pc1Split key := by
  have htotal : rotationAfter 16 (Nat.le_refl 16) = 0 := by decide
  rw [halvesAfter_eq_rotl28, htotal, rotl28_zero, rotl28_zero]

end Sys2Proof.Machine
end

section
/-! PROOFS. The life of a command, edge by edge (R129, R160, R177). -/

namespace Sys2Proof.Machine

/-! ### What a step does in each phase (R176) -/

section
variable {s : State} (hl : s.live = true) (hr : s.pins.rst = false)
include hl hr

theorem step_of_idle_nop (hp : s.PHASE = .idle) (hs : s.pins.start = false) : step s = .next s.nextPins :=
  step_of_exec (.inl hl) (by simp [decode_stepWord, hr, hp, hs, exec, execNop])

theorem step_of_idle_request (hp : s.PHASE = .idle) (hs : s.pins.start = true) :
    step s = .next (s.accept s.pins.dec s.pins.block_in s.pins.key_in).nextPins :=
  step_of_exec (.inl hl) (by
    cases hd : s.pins.dec <;> simp [decode_stepWord, hr, hp, hs, hd, exec, execEnc, execDec])

theorem step_of_ks (hp : s.PHASE = .ks) {r : Round} (hi : s.I.toNat = roundNumber r) :
    step s = .next (s.keyStep r).nextPins :=
  step_of_exec (.inl hl) (by simp [decode_stepWord, hr, hp, exec, execKs, (roundOf_eq_some_iff s.I r).mpr hi])

theorem step_of_rnd (hp : s.PHASE = .rnd) {r : Round} (hi : s.I.toNat = roundNumber r) :
    step s = .next (s.feistelStep r).nextPins :=
  step_of_exec (.inl hl) (by simp [decode_stepWord, hr, hp, exec, execRnd, (roundOf_eq_some_iff s.I r).mpr hi])

theorem step_of_fin (hp : s.PHASE = .fin) : step s = .next s.finish.nextPins :=
  step_of_exec (.inl hl) (by simp [decode_stepWord, hr, hp, exec, execFin])

end

/-! ### What each micro-step makes of a command in progress -/

theorem State.accept_inSchedule (s : State) (dec : Bool) (block : Block) (key : Key) :
    (s.accept dec block key).inSchedule dec block key 0 (by decide) :=
  ⟨rfl, rfl, rfl, rfl, rfl, fun _ h => absurd h (Nat.not_lt_zero _), rfl⟩

/-- The value a command delivers is the network's with the subkeys in the command's order (R170, R171). -/
theorem commandResult_eq_feistel (t : SBox) (dec : Bool) (block : Block) (key : Key) :
    commandResult t dec block key = feistel t block (keyOrder dec key) := by
  cases dec <;> rfl

section
variable {s : State} {dec : Bool} {block : Block} {key : Key} {n : Nat}

/-- `KS` for round n + 1 makes (C_{n+1}, D_{n+1}) of (C_n, D_n). -/
theorem State.keyStep_halves (h : n < 16) (hcd : (s.C, s.D) = halvesAfter key n (Nat.le_of_lt h)) :
    ((s.keyStep ⟨n, h⟩).C, (s.keyStep ⟨n, h⟩).D) = halvesAfter key (n + 1) h := by
  simp only [State.keyStep_C, State.keyStep_D, halvesAfter, ← hcd]

/-- `KS` for round n + 1 adds the entry n + 1 to the subkeys written so far. -/
theorem State.keyStep_subkeys (h : n < 16) (hcd : (s.C, s.D) = halvesAfter key n (Nat.le_of_lt h))
    (hk : ∀ m : Fin 16, m.val < n → s.K[m.val] = (generateSubkeys key)[m.val]) (m : Fin 16) (hm : m.val < n + 1) :
    (s.keyStep ⟨n, h⟩).K[m.val] = (generateSubkeys key)[m.val] := by
  rcases Nat.lt_or_eq_of_le (Nat.le_of_lt_succ hm) with hlt | heq
  · simp only [State.keyStep_K]
    rw [Vector.getElem_set_ne _ _ (show n ≠ m.val by omega), hk m hlt]
  · obtain rfl : m = ⟨n, h⟩ := Fin.ext heq
    simp only [State.keyStep_K, Vector.getElem_set_self, generateSubkeys, Vector.getElem_ofFn, subkeyOf, halvesAfter,
      ← hcd]

/-- Before round 16, `KS` leads to the next round of the schedule. -/
theorem State.inSchedule.keyStep (h : n + 1 < 16) (hs : s.inSchedule dec block key n (Nat.lt_of_succ_lt h)) :
    (s.keyStep ⟨n, Nat.lt_of_succ_lt h⟩).inSchedule dec block key (n + 1) h := by
  obtain ⟨hp, -, hdec, hdone, hcd, hk, hlr⟩ := hs
  obtain ⟨hp', hi'⟩ := s.keyStep_seq_of_lt (r := ⟨n, Nat.lt_of_succ_lt h⟩) (Nat.lt_of_succ_lt_succ h)
  refine ⟨hp'.trans hp, hi', (s.keyStep_DEC _).trans hdec, (s.keyStep_DONE _).trans hdone,
    State.keyStep_halves _ hcd, State.keyStep_subkeys _ hcd hk, ?_⟩
  rw [State.keyStep_L, State.keyStep_R, hlr]

/-- At round 16, `KS` completes the schedule and leads to the first round (R126, R129). -/
theorem State.inSchedule.keyStep_last (hs : s.inSchedule dec block key 15 (by decide)) :
    (s.keyStep 15).inRounds dec block key 0 (by decide) := by
  obtain ⟨-, -, hdec, hdone, hcd, hk, hlr⟩ := hs
  obtain ⟨hp', hi'⟩ := s.keyStep_seq_of_eq (r := 15) rfl
  have hkeys : (s.keyStep 15).K = generateSubkeys key :=
    Vector.ext fun m hm => State.keyStep_subkeys _ hcd hk ⟨m, hm⟩ hm
  have hhalves : ((s.keyStep 15).C, (s.keyStep 15).D) = pc1Split key :=
    (State.keyStep_halves _ hcd).trans (halvesAfter_sixteen key)
  refine ⟨hp', by rw [hi']; rfl, (s.keyStep_DONE _).trans hdone, ⟨(s.keyStep_DEC _).trans hdec, hhalves, hkeys⟩, ?_⟩
  rw [State.keyStep_L, State.keyStep_R, hlr, pairAfter]

/-- `RND` leaves the schedule alone. -/
theorem State.scheduleDone.feistelStep (hs : s.scheduleDone dec key) (r : Round) :
    (s.feistelStep r).scheduleDone dec key := by
  simpa only [State.scheduleDone, State.feistelStep_DEC, State.feistelStep_C, State.feistelStep_D,
    State.feistelStep_K] using hs

/-- `RND` for round n + 1 makes the pair after n + 1 rounds of the pair after n (R158, R160). -/
theorem State.feistelStep_halves (h : n < 16) (hk : s.scheduleDone dec key)
    (hlr : (s.L, s.R) = pairAfter s.sbox (ipSplit block) (keyOrder dec key) n (Nat.le_of_lt h)) :
    ((s.feistelStep ⟨n, h⟩).L, (s.feistelStep ⟨n, h⟩).R) =
      pairAfter s.sbox (ipSplit block) (keyOrder dec key) (n + 1) h := by
  obtain ⟨hdec, -, hkeys⟩ := hk
  have hkey : s.readK (ksel s.DEC ⟨n, h⟩) = (keyOrder dec key)[n] := by
    rw [keyOrder_getElem dec key ⟨n, h⟩, State.readK, hdec, hkeys]
  simp only [pairAfter, ← hlr, feistelRound, State.feistelStep_L, State.feistelStep_R, hkey]

/-- Before round 16, `RND` leads to the next round. -/
theorem State.inRounds.feistelStep (h : n + 1 < 16) (hs : s.inRounds dec block key n (Nat.lt_of_succ_lt h)) :
    (s.feistelStep ⟨n, Nat.lt_of_succ_lt h⟩).inRounds dec block key (n + 1) h := by
  obtain ⟨hp, -, hdone, hk, hlr⟩ := hs
  obtain ⟨hp', hi'⟩ := s.feistelStep_seq_of_lt (r := ⟨n, Nat.lt_of_succ_lt h⟩) (Nat.lt_of_succ_lt_succ h)
  refine ⟨hp'.trans hp, hi', (s.feistelStep_DONE _).trans hdone, hk.feistelStep _, ?_⟩
  rw [State.feistelStep_halves _ hk hlr, State.feistelStep_sbox]

/-- At round 16, `RND` leads to FIN. -/
theorem State.inRounds.feistelStep_last (hs : s.inRounds dec block key 15 (by decide)) :
    (s.feistelStep 15).atFinish dec block key := by
  obtain ⟨-, -, hdone, hk, hlr⟩ := hs
  obtain ⟨hp', hi'⟩ := s.feistelStep_seq_of_eq (r := 15) rfl
  refine ⟨hp', hi', (s.feistelStep_DONE _).trans hdone, hk.feistelStep _, ?_⟩
  rw [State.feistelStep_sbox]
  exact State.feistelStep_halves (by decide) hk hlr

/-- `FIN` delivers the function's value (R159, R179). -/
theorem State.atFinish.finish (hs : s.atFinish dec block key) : s.finish.delivered dec block key := by
  obtain ⟨-, -, -, hk, hlr⟩ := hs
  refine ⟨rfl, rfl, rfl, hk, hlr, ?_⟩
  calc s.finish.OUT = fperm (combine (s.L, s.R).1 (s.L, s.R).2) := rfl
    _ = feistel s.sbox block (keyOrder dec key) := by rw [hlr, feistel]
    _ = commandResult s.sbox dec block key := (commandResult_eq_feistel _ _ _ _).symm

end

/-! ### The edges of a command (R177) -/

/-- A specified state with the table `x`, `n` edges into the command (`dec`, `block`, `key`). -/
def State.onCommand (s : State) (x : SBox) (dec : Bool) (block : Block) (key : Key) (n : Nat) : Prop :=
  s.live = true ∧ s.sbox = x ∧ s.afterEdges dec block key n

section
variable {s : State} {x : SBox} {dec : Bool} {block : Block} {key : Key} {n : Nat}

/-- The host's side of an edge does not show in the command. -/
@[simp] theorem State.onCommand_nextPins : s.nextPins.onCommand x dec block key n ↔ s.onCommand x dec block key n := by
  obtain ⟨p, ps, h⟩ := s.nextPins_cases
  rw [h]
  exact Iff.rfl

@[simp] theorem State.onCommand_setPins (p : Pins) :
    (s.setPins p).onCommand x dec block key n ↔ s.onCommand x dec block key n := Iff.rfl

/-- A request accepted in IDLE is the first edge of its command (R169). -/
theorem State.ready.exists_step (h : s.ready) (hq : s.pins.requests) :
    ∃ t, step s = .next t ∧ t.onCommand s.sbox s.pins.dec s.pins.block_in s.pins.key_in 1 := by
  obtain ⟨hl, hp⟩ := h
  obtain ⟨hr, hs⟩ := hq
  exact ⟨_, step_of_idle_request hl hr hp hs, State.onCommand_nextPins.mpr
    ⟨hl, rfl, .inl ⟨0, by decide, rfl, s.accept_inSchedule _ _ _⟩⟩⟩

/-- Until the command has delivered, an edge without `rst` is its next edge, whatever the other ports carry (R174). -/
theorem State.onCommand.exists_step (hs : s.onCommand x dec block key n) (hn : n < 34) (hr : s.pins.rst = false) :
    ∃ t, step s = .next t ∧ t.onCommand x dec block key (n + 1) := by
  obtain ⟨hl, rfl, ⟨m, hm, rfl, h⟩ | ⟨m, hm, rfl, h⟩ | ⟨rfl, h⟩ | ⟨rfl, -⟩⟩ := hs
  · have ⟨hp, hi, _⟩ := h
    refine ⟨_, step_of_ks hl hr hp (r := ⟨m, hm⟩) hi, State.onCommand_nextPins.mpr
      ⟨(s.keyStep_live _).trans hl, s.keyStep_sbox _, ?_⟩⟩
    by_cases hlast : m + 1 < 16
    · exact .inl ⟨m + 1, hlast, rfl, h.keyStep hlast⟩
    · obtain rfl : m = 15 := by omega
      exact .inr (.inl ⟨0, by decide, rfl, h.keyStep_last⟩)
  · have ⟨hp, hi, _⟩ := h
    refine ⟨_, step_of_rnd hl hr hp (r := ⟨m, hm⟩) hi, State.onCommand_nextPins.mpr
      ⟨(s.feistelStep_live _).trans hl, s.feistelStep_sbox _, ?_⟩⟩
    by_cases hlast : m + 1 < 16
    · exact .inr (.inl ⟨m + 1, hlast, by omega, h.feistelStep hlast⟩)
    · obtain rfl : m = 15 := by omega
      exact .inr (.inr (.inl ⟨rfl, h.feistelStep_last⟩))
  · have ⟨hp, _⟩ := h
    exact ⟨_, step_of_fin hl hr hp, State.onCommand_nextPins.mpr ⟨hl, rfl, .inr (.inr (.inr ⟨rfl, h.finish⟩))⟩⟩
  · exact absurd hn (by decide)

theorem State.onCommand.bounds (hs : s.onCommand x dec block key n) : 1 ≤ n ∧ n ≤ 34 := by
  obtain ⟨-, -, ⟨m, hm, rfl, -⟩ | ⟨m, hm, rfl, -⟩ | ⟨rfl, -⟩ | ⟨rfl, -⟩⟩ := hs <;> omega

/-- After 34 edges the command has delivered, and only then. -/
theorem State.onCommand.delivered (hs : s.onCommand x dec block key 34) : s.delivered dec block key := by
  obtain ⟨-, -, ⟨m, hm, hn, -⟩ | ⟨m, hm, hn, -⟩ | ⟨hn, -⟩ | ⟨-, h⟩⟩ := hs
  · omega
  · omega
  · omega
  · exact h

/-- `done` is 1 after the 34th edge and after no earlier one (R219). -/
theorem State.onCommand.done_iff (hs : s.onCommand x dec block key n) : done s = true ↔ n = 34 := by
  obtain ⟨-, -, ⟨m, hm, rfl, h⟩ | ⟨m, hm, rfl, h⟩ | ⟨rfl, h⟩ | ⟨rfl, h⟩⟩ := hs
  · obtain ⟨-, -, -, hd, -⟩ := h
    simp only [done, hd, Bool.false_eq_true, false_iff]
    omega
  · obtain ⟨-, -, hd, -⟩ := h
    simp only [done, hd, Bool.false_eq_true, false_iff]
    omega
  · obtain ⟨-, -, hd, -⟩ := h
    simp [done, hd]
  · obtain ⟨-, -, hd, -⟩ := h
    simp [done, hd]

/-- After the 34th edge `block_out` shows the function's value (R179). -/
theorem State.onCommand.blockOut_eq (hs : s.onCommand x dec block key 34) :
    blockOut s = commandResult x dec block key := by
  obtain ⟨-, -, -, -, -, hout⟩ := hs.delivered
  obtain ⟨-, rfl, -⟩ := hs
  exact hout

theorem State.onCommand.ready (hs : s.onCommand x dec block key 34) : s.ready := ⟨hs.1, hs.delivered.1⟩

/-- Any edges without `rst`, up to the 34th, are edges of the command (R177). -/
theorem State.onCommand.exists_runPins (hs : s.onCommand x dec block key n) {ps : List Pins} (hps : noReset ps)
    (hn : n + ps.length ≤ 34) : ∃ t, runPins ps s = .next t ∧ t.onCommand x dec block key (n + ps.length) := by
  induction ps generalizing s n with
  | nil => exact ⟨s, rfl, hs⟩
  | cons p ps ih =>
    obtain ⟨hp, hps⟩ := List.forall_mem_cons.mp hps
    rw [List.length_cons] at hn ⊢
    obtain ⟨u, hu, hsu⟩ := ((State.onCommand_setPins p).mpr hs).exists_step (by omega) hp
    obtain ⟨t, ht, hst⟩ := ih hsu hps (by omega)
    refine ⟨t, by simp only [runPins, hu, ht], ?_⟩
    rwa [show n + (ps.length + 1) = n + 1 + ps.length by omega]

/-- A request and the edges after it are the edges of its command (R177). -/
theorem State.ready.exists_runPins (h : s.ready) {p : Pins} (hp : p.requests) {ps : List Pins} (hps : noReset ps)
    (hn : ps.length ≤ 33) :
    ∃ t, runPins (p :: ps) s = .next t ∧ t.onCommand s.sbox p.dec p.block_in p.key_in (ps.length + 1) := by
  obtain ⟨u, hu, hsu⟩ := State.ready.exists_step (s := s.setPins p) h hp
  obtain ⟨t, ht, hst⟩ := hsu.exists_runPins hps (by omega)
  refine ⟨t, by simp only [runPins, hu, ht], ?_⟩
  rwa [Nat.add_comm] at hst

end

end Sys2Proof.Machine
end

section
/-! PROOFS. `WAIT`, the pseudo-instructions that end in it, and `SELFTEST` (R101). -/

namespace Sys2Proof.Machine

/-! ### One line, and `WAIT` by its first line -/

/-- One line is one edge. -/
theorem runLines_singleton (l : HostLine) (s : State) : runLines [l] s = step (s.setPins l.pins) := by
  simp only [runLines, List.map, runPins]
  cases step (s.setPins l.pins) <;> rfl

theorem waitDone_succ {s t : State} (h : runLines [.nop] s = .next t) (fuel : Nat) :
    waitDone (fuel + 1) s = if done t then some (1, t) else (waitDone fuel t).map fun r => (r.1 + 1, r.2) := by
  simp only [waitDone, h]

/-- A `WAIT` that ends had a first `NOP` line: it ended with that, or goes on after it. -/
theorem waitDone_succ_some {fuel n : Nat} {s u : State} (h : waitDone (fuel + 1) s = some (n, u)) :
    ∃ t, runLines [.nop] s = .next t ∧
      ((done t = true ∧ n = 1 ∧ u = t) ∨ (done t = false ∧ ∃ m, n = m + 1 ∧ waitDone fuel t = some (m, u))) := by
  cases ht : runLines [.nop] s with
  | next t =>
    rw [waitDone_succ ht] at h
    refine ⟨t, rfl, ?_⟩
    cases hd : done t with
    | true =>
      rw [hd, if_pos rfl, Option.some.injEq, Prod.mk.injEq] at h
      exact .inl ⟨rfl, h.1.symm, h.2.symm⟩
    | false =>
      simp only [hd, Bool.false_eq_true, if_false, Option.map_eq_some_iff, Prod.mk.injEq, Prod.exists] at h
      obtain ⟨m, v, hm, rfl, rfl⟩ := h
      exact .inr ⟨rfl, m, rfl, hm⟩
  | fault r => exact nomatch r
  | refused r => simp only [waitDone, ht, reduceCtorEq] at h

/-- Lines allowed beyond those a `WAIT` takes make no difference. -/
theorem waitDone_of_le {fuel fuel' n : Nat} {s u : State} (h : waitDone fuel s = some (n, u)) (hn : n ≤ fuel') :
    waitDone fuel' s = some (n, u) := by
  induction fuel generalizing fuel' n s with
  | zero => cases h
  | succ fuel ih =>
    obtain ⟨t, ht, ⟨hd, rfl, rfl⟩ | ⟨hd, m, rfl, hm⟩⟩ := waitDone_succ_some h
    · obtain ⟨k, rfl⟩ := Nat.exists_eq_add_of_le' hn
      rw [waitDone_succ ht, if_pos hd]
    · obtain ⟨k, rfl⟩ := Nat.exists_eq_add_of_le' (Nat.le_of_add_left_le hn)
      rw [waitDone_succ ht, hd, ih hm (Nat.le_of_succ_le_succ hn)]
      rfl

/-! ### `WAIT` with a command to wait for -/

/-- A `NOP` line in IDLE changes nothing but the host's side (R166). -/
theorem State.ready.runLines_nop {s : State} (h : s.ready) : runLines [.nop] s = .next (s.setPins Pins.low).nextPins := by
  obtain ⟨hl, hp⟩ := h
  rw [runLines_singleton]
  exact step_of_idle_nop (s := s.setPins Pins.low) hl rfl hp rfl

section
variable {s t : State} {x : SBox} {dec : Bool} {block : Block} {key : Key} {n : Nat}

/-- A `NOP` line is the command's next edge, or keeps what it has delivered (R214). -/
theorem State.onCommand.exists_runLines_nop (hs : s.onCommand x dec block key n) :
    ∃ t, runLines [.nop] s = .next t ∧ t.onCommand x dec block key (min (n + 1) 34) := by
  by_cases hn : n < 34
  · rw [runLines_singleton, Nat.min_eq_left hn]
    exact State.onCommand.exists_step (s := s.setPins Pins.low) hs hn rfl
  · obtain rfl : n = 34 := Nat.le_antisymm hs.bounds.2 (Nat.le_of_not_lt hn)
    exact ⟨_, hs.ready.runLines_nop, State.onCommand_nextPins.mpr hs⟩

/-- `WAIT` issued `n` edges into a command takes the edges left of its 34, and one line when none are left (log 16). -/
theorem State.onCommand.exists_waitDone (hs : s.onCommand x dec block key n) :
    ∃ u, u.onCommand x dec block key 34 ∧ ∀ fuel, 33 - n + 1 ≤ fuel → waitDone fuel s = some (33 - n + 1, u) := by
  induction hj : 33 - n generalizing s n with
  | zero =>
    obtain ⟨t, ht, hst⟩ := hs.exists_runLines_nop
    rw [Nat.min_eq_right (by omega)] at hst
    refine ⟨t, hst, fun fuel hf => ?_⟩
    obtain ⟨k, rfl⟩ := Nat.exists_eq_add_of_le' hf
    rw [waitDone_succ ht, if_pos (hst.done_iff.mpr rfl)]
  | succ j ih =>
    obtain ⟨t, ht, hst⟩ := hs.exists_runLines_nop
    rw [Nat.min_eq_left (by omega)] at hst
    obtain ⟨u, hu, hw⟩ := ih hst (by omega)
    have hd : ¬done t = true := fun hd => by have := hst.done_iff.mp hd; omega
    refine ⟨u, hu, fun fuel hf => ?_⟩
    obtain ⟨k, rfl⟩ := Nat.exists_eq_add_of_le' (Nat.le_of_add_left_le hf)
    rw [waitDone_succ ht, if_neg hd, hw k (Nat.le_of_succ_le_succ hf)]
    rfl

theorem State.onCommand.exists_runWait (hs : s.onCommand x dec block key n) :
    ∃ u, u.onCommand x dec block key 34 ∧ runWait s = some (List.replicate (33 - n + 1) .nop, u) := by
  obtain ⟨u, hu, hw⟩ := hs.exists_waitDone
  have hn : 33 - n + 1 ≤ WAIT_LIMIT := by have := hs.bounds; show 33 - n + 1 ≤ 33; omega
  exact ⟨u, hu, by rw [runWait, hw WAIT_LIMIT hn]; rfl⟩

/-- A line that leads `n` edges into a command, and the `WAIT` after it. -/
theorem State.onCommand.exists_runThenWait (hs : t.onCommand x dec block key n) {l : HostLine}
    (hl : runLines [l] s = .next t) :
    ∃ u, u.onCommand x dec block key 34 ∧ runThenWait [l] s = some (l :: List.replicate (33 - n + 1) .nop, u) := by
  obtain ⟨u, hu, hw⟩ := hs.exists_runWait
  exact ⟨u, hu, by simp only [runThenWait, hl, hw]; rfl⟩

/-- A command line issued while busy is ignored: the `WAIT` after it waits for the earlier command (R174). -/
theorem State.onCommand.exists_runThenWait_busy (hs : s.onCommand x dec block key (n + 1)) (hn : n ≤ 32) {l : HostLine}
    (hl : l.pins.rst = false) :
    ∃ v, runThenWait [l] s = some (l :: List.replicate (max 1 (32 - n)) .nop, v) ∧
      blockOut v = commandResult x dec block key := by
  obtain ⟨t, ht, hst⟩ := State.onCommand.exists_step (s := s.setPins l.pins) hs (by omega) hl
  obtain ⟨v, hv, hw⟩ := hst.exists_runThenWait ((runLines_singleton l s).trans ht)
  rw [show 33 - (n + 1 + 1) + 1 = max 1 (32 - n) by omega] at hw
  exact ⟨v, hw, hv.blockOut_eq⟩

end

/-- A command line in IDLE is accepted, and the `WAIT` after it is 33 `NOP` lines (R101, R219). -/
theorem State.ready.exists_runThenWait {s : State} (h : s.ready) {l : HostLine} (hl : l.pins.requests) :
    ∃ t u, runLines [l] s = .next t ∧ (∀ fuel, 33 ≤ fuel → waitDone fuel t = some (33, u)) ∧
      runThenWait [l] s = some (l :: List.replicate 33 .nop, u) ∧
      u.onCommand s.sbox l.pins.dec l.pins.block_in l.pins.key_in 34 := by
  obtain ⟨t, ht, hst⟩ := State.ready.exists_step (s := s.setPins l.pins) h hl
  have hline : runLines [l] s = .next t := (runLines_singleton l s).trans ht
  obtain ⟨u, hu, hw⟩ := hst.exists_waitDone
  refine ⟨t, u, hline, hw, ?_, hu⟩
  simp only [runThenWait, hline, runWait, hw WAIT_LIMIT (Nat.le_refl 33)]
  rfl

/-! ### `WAIT` in any state -/

/-- In IDLE with `DONE` = 0, `NOP` lines raise nothing, so `WAIT` never ends. -/
theorem State.ready.waitDone_eq_none {s : State} (h : s.ready) (hd : s.DONE = false) (fuel : Nat) :
    waitDone fuel s = none := by
  induction fuel generalizing s with
  | zero => rfl
  | succ fuel ih =>
    have hready : (s.setPins Pins.low).nextPins.ready :=
      ⟨(State.nextPins_live _).trans h.1, (State.nextPins_PHASE _).trans h.2⟩
    have hdone : (s.setPins Pins.low).nextPins.DONE = false := (State.nextPins_DONE _).trans hd
    rw [waitDone_succ h.runLines_nop, done, hdone, ih hready hdone]
    rfl

/-- A bound on the lines of a `WAIT`, from the sequencing state alone, legal or not: one for each round left, and one
for FIN. -/
def State.waitBound (s : State) : Nat :=
  match s.PHASE with
  | .idle => 1
  | .ks => 17 + (16 - (s.I.toNat - 1))
  | .rnd => 1 + (16 - (s.I.toNat - 1))
  | .fin => 1

theorem State.waitBound_range (s : State) : 1 ≤ s.waitBound ∧ s.waitBound ≤ 33 := by
  unfold State.waitBound
  split <;> omega

@[simp] theorem State.waitBound_nextPins (s : State) : s.nextPins.waitBound = s.waitBound := by
  simp only [State.waitBound, State.nextPins_PHASE, State.nextPins_I]

theorem State.waitBound_keyStep {s : State} (hp : s.PHASE = .ks) {r : Round} (hi : s.I.toNat = roundNumber r) :
    (s.keyStep r).waitBound + 1 = s.waitBound := by
  rcases Nat.lt_or_eq_of_le (Nat.le_of_lt_succ r.isLt) with hr | hr
  · obtain ⟨hp', hi'⟩ := s.keyStep_seq_of_lt hr
    simp only [State.waitBound, hp', hp, hi', hi, roundNumber]
    omega
  · obtain ⟨hp', hi'⟩ := s.keyStep_seq_of_eq hr
    simp only [State.waitBound, hp', hp, hi', hi, roundNumber, hr]
    rfl

theorem State.waitBound_feistelStep {s : State} (hp : s.PHASE = .rnd) {r : Round} (hi : s.I.toNat = roundNumber r) :
    (s.feistelStep r).waitBound + 1 = s.waitBound := by
  rcases Nat.lt_or_eq_of_le (Nat.le_of_lt_succ r.isLt) with hr | hr
  · obtain ⟨hp', hi'⟩ := s.feistelStep_seq_of_lt hr
    simp only [State.waitBound, hp', hp, hi', hi, roundNumber]
    omega
  · obtain ⟨hp', -⟩ := s.feistelStep_seq_of_eq hr
    simp only [State.waitBound, hp', hp, hi, roundNumber, hr]

/-- A `KS` that completes had the number of a round (R97). -/
theorem exec_ks_next {n : BitVec 5} {s t : State} (h : exec (.ks n) s = .next t) :
    ∃ r, n.toNat = roundNumber r ∧ t = s.keyStep r := by
  cases hr : roundOf n with
  | none => simp only [exec, execKs, hr, reduceCtorEq] at h
  | some r =>
    simp only [exec, execKs, hr, Host.Outcome.next.injEq] at h
    exact ⟨r, (roundOf_eq_some_iff n r).mp hr, h.symm⟩

/-- A `RND` that completes had the number of a round (R97). -/
theorem exec_rnd_next {n : BitVec 5} {s t : State} (h : exec (.rnd n) s = .next t) :
    ∃ r, n.toNat = roundNumber r ∧ t = s.feistelStep r := by
  cases hr : roundOf n with
  | none => simp only [exec, execRnd, hr, reduceCtorEq] at h
  | some r =>
    simp only [exec, execRnd, hr, Host.Outcome.next.injEq] at h
    exact ⟨r, (roundOf_eq_some_iff n r).mp hr, h.symm⟩

/-- Everything a `NOP` line does about a `WAIT`: it leads to IDLE or leaves one line less to wait for. -/
theorem runLines_nop_cases {s t : State} (h : runLines [.nop] s = .next t) :
    t.ready ∨ t.waitBound + 1 = s.waitBound := by
  rw [runLines_singleton] at h
  obtain ⟨hl, u, hu, rfl⟩ := step_next_cases h
  replace hl : s.live = true := hl.resolve_right Bool.false_ne_true
  rw [decode_stepWord] at hu
  cases hp : s.PHASE <;> simp only [State.setPins_PHASE, State.setPins_I, hp] at hu
  case idle =>
    injection hu with hu
    subst hu
    exact .inl ⟨(State.nextPins_live _).trans hl, (State.nextPins_PHASE _).trans hp⟩
  case ks =>
    obtain ⟨r, hr, rfl⟩ := exec_ks_next hu
    rw [State.waitBound_nextPins]
    exact .inr (State.waitBound_keyStep (s := s.setPins Pins.low) hp hr)
  case rnd =>
    obtain ⟨r, hr, rfl⟩ := exec_rnd_next hu
    rw [State.waitBound_nextPins]
    exact .inr (State.waitBound_feistelStep (s := s.setPins Pins.low) hp hr)
  case fin =>
    injection hu with hu
    subst hu
    exact .inl ⟨(State.nextPins_live _).trans hl, State.nextPins_PHASE _⟩

/-- A `WAIT` that ends does so within its bound: from IDLE without a result it would not end. -/
theorem waitDone_le_waitBound {fuel n : Nat} {s u : State} (h : waitDone fuel s = some (n, u)) : n ≤ s.waitBound := by
  induction fuel generalizing n s with
  | zero => cases h
  | succ fuel ih =>
    obtain ⟨t, ht, ⟨hd, rfl, rfl⟩ | ⟨hd, m, rfl, hm⟩⟩ := waitDone_succ_some h
    · exact s.waitBound_range.1
    · rcases runLines_nop_cases ht with hready | hbound
      · rw [hready.waitDone_eq_none hd] at hm
        cases hm
      · have := ih hm
        omega

/-! ### The statements -/

/-- Settles O44: accepted, busy, and idle `WAIT`s by the lemmas above; the bound of 33 lines in any state. -/
theorem waitTakesThirtyThreeNops : Obligations.WaitTakesThirtyThreeNops := by
  refine ⟨fun s b k hs => ⟨?_, ?_⟩, fun s p ps b k hs hp hps hn => ?_, fun s hs hd => hs.waitDone_eq_none hd,
    fun s fuel r h => ?_⟩
  · obtain ⟨t, u, ht, hw, hrun, hu⟩ := hs.exists_runThenWait (l := .enc b k) ⟨rfl, rfl⟩
    exact ⟨t, u, ht, hw, hrun, hu.blockOut_eq⟩
  · obtain ⟨t, u, ht, hw, hrun, hu⟩ := hs.exists_runThenWait (l := .dec b k) ⟨rfl, rfl⟩
    exact ⟨t, u, ht, hw, hrun, hu.blockOut_eq⟩
  · obtain ⟨t, ht, hst⟩ := hs.exists_runPins hp hps (Nat.le_succ_of_le hn)
    obtain ⟨u, hu, hw⟩ := hst.exists_runWait
    rw [show 33 - (ps.length + 1) + 1 = 33 - ps.length by omega] at hw
    exact ⟨t, u, ht, hw, hu.blockOut_eq, hst.exists_runThenWait_busy hn (l := .enc b k) rfl,
      hst.exists_runThenWait_busy hn (l := .dec b k) rfl⟩
  · have hr : r.1 ≤ 33 := (waitDone_le_waitBound h).trans s.waitBound_range.2
    exact ⟨hr, waitDone_of_le h hr⟩

/-- Settles O58: the two commands deliver, and `decrypt` undoes `encrypt` (R172). -/
theorem selftestReportsRoundTrip : Obligations.SelftestReportsRoundTrip := by
  intro s block key hs
  obtain ⟨-, t, -, -, hrun, ht⟩ := hs.exists_runThenWait (l := .enc block key) ⟨rfl, rfl⟩
  obtain ⟨-, u, -, -, hrun', hu⟩ := ht.ready.exists_runThenWait (l := .dec (blockOut t) key) ⟨rfl, rfl⟩
  have hout : blockOut t = encrypt s.sbox block key := ht.blockOut_eq
  have hback : blockOut u = decrypt s.sbox (blockOut t) key := by
    obtain ⟨-, hx, -⟩ := ht
    rw [← hx]
    exact hu.blockOut_eq
  simp only [selftest, runPseudo, hrun, hrun']
  rw [hback, hout, decrypt_encrypt]

end Sys2Proof.Machine
end

section
/-! PROOFS. The laws of the permutation engine (R110, R115, R117, R118), by comparing values at every DES position. -/

namespace Sys2Proof.Machine

/-! ### The bit at a DES position (R11) -/

@[simp] theorem bit_zero (w p : Nat) : bit (0#w) p = false := BitVec.getLsbD_zero

theorem bit_allOnes {w p : Nat} (h1 : 1 ≤ p) (h2 : p ≤ w) : bit (BitVec.allOnes w) p = true := by
  rw [bit, BitVec.getLsbD_allOnes, decide_eq_true_eq]
  omega

@[simp] theorem bit_xor {w : Nat} (a b : BitVec w) (p : Nat) : bit (a ^^^ b) p = (bit a p ^^ bit b p) :=
  BitVec.getLsbD_xor

/-- Changing the bit at one position leaves the others (R117 (d)). -/
theorem bit_xor_twoPow_of_ne {w : Nat} (v : BitVec w) {p q : Nat} (hp : p ≤ w) (hq : q ≤ w) (hne : q ≠ p) :
    bit (v ^^^ BitVec.twoPow w (w - p)) q = bit v q := by
  have hoff : bit (BitVec.twoPow w (w - p)) q = false := by
    rw [bit, BitVec.getLsbD_twoPow, Bool.and_eq_false_iff, decide_eq_false_iff_not, decide_eq_false_iff_not]
    omega
  rw [bit_xor, hoff, Bool.xor_false]

/-! ### Constant values and linearity (R110, R117 (a)) -/

@[simp] theorem permute_zero {w n : Nat} (t : PermTable w n) : permute t (0#w) = 0#n :=
  eq_of_bit_eq fun m h1 h2 => by rw [bit_permute t _ h1 h2, bit_zero, bit_zero]

@[simp] theorem permute_allOnes {w n : Nat} (t : PermTable w n) :
    permute t (BitVec.allOnes w) = BitVec.allOnes n := by
  apply eq_of_bit_eq
  intro m h1 h2
  obtain ⟨ht1, ht2⟩ := tab_mem_range t h1 h2
  rw [bit_permute t _ h1 h2, bit_allOnes ht1 ht2, bit_allOnes h1 h2]

theorem permute_xor {w n : Nat} (t : PermTable w n) (a b : BitVec w) :
    permute t (a ^^^ b) = permute t a ^^^ permute t b :=
  eq_of_bit_eq fun m h1 h2 => by simp only [bit_permute t _ h1 h2, bit_xor]

/-! ### The identity table, composition and inverse (R115, R117 (b), (c)) -/

theorem tab_of_entries_eq_range' {w n : Nat} {t : PermTable w n} (ht : t.entries = List.range' 1 n) {m : Nat}
    (h1 : 1 ≤ m) (h2 : m ≤ n) : tab t m = m := by
  rw [tab, ht, List.getD_eq_getElem _ _ (by rw [List.length_range']; omega), List.getElem_range']
  omega

theorem permute_permute {w n₁ n₂ : Nat} {t₁ : PermTable w n₁} {t₂ : PermTable n₁ n₂} {t₁₂ : PermTable w n₂}
    (h : ∀ m, 1 ≤ m → m ≤ n₂ → tab t₁₂ m = tab t₁ (tab t₂ m)) (v : BitVec w) :
    permute t₂ (permute t₁ v) = permute t₁₂ v := by
  apply eq_of_bit_eq
  intro m h1 h2
  obtain ⟨ht1, ht2⟩ := tab_mem_range t₂ h1 h2
  rw [bit_permute t₂ _ h1 h2, bit_permute t₁ v ht1 ht2, bit_permute t₁₂ v h1 h2, h m h1 h2]

/-- A left inverse of a table is a right inverse: an injective map of 1..w to itself is onto (R117 (c)). -/
theorem tab_rightInverse_of_leftInverse {w : Nat} {t u : PermTable w w}
    (h : ∀ m, 1 ≤ m → m ≤ w → tab u (tab t m) = m) : ∀ m, 1 ≤ m → m ≤ w → tab t (tab u m) = m := by
  have hleft : Set.LeftInvOn (tab u) (tab t) (Finset.Icc 1 w) := fun m hm =>
    h m (Finset.mem_Icc.mp hm).1 (Finset.mem_Icc.mp hm).2
  have hmaps : Set.MapsTo (tab t) (Finset.Icc 1 w) (Finset.Icc 1 w) := fun m hm =>
    Finset.mem_Icc.mpr (tab_mem_range t (Finset.mem_Icc.mp hm).1 (Finset.mem_Icc.mp hm).2)
  have honto : Set.SurjOn (tab t) (Finset.Icc 1 w) (Finset.Icc 1 w) :=
    Finset.surjOn_of_injOn_of_card_le (tab t) hmaps hleft.injOn le_rfl
  exact fun m h1 h2 => honto.leftInvOn_of_rightInvOn hleft (Finset.mem_Icc.mpr ⟨h1, h2⟩)

/-! ### Unlisted positions (R117 (d)) -/

theorem permute_xor_twoPow_of_notMem {w n : Nat} (t : PermTable w n) (v : BitVec w) {p : Nat} (hp : p ≤ w)
    (hnot : p ∉ t.entries) : permute t (v ^^^ BitVec.twoPow w (w - p)) = permute t v := by
  apply permute_congr
  intro q hq
  exact bit_xor_twoPow_of_ne v hp (t.in_range q hq).2 (ne_of_mem_of_not_mem hq hnot)

/-! ### One image, position by position (R110) -/

/-- A value is the image when each of its bits is the one the table lists there: what a row of R118 is checked by. -/
theorem permute_eq_of_bits {w n : Nat} (t : PermTable w n) {v : BitVec w} {u : BitVec n}
    (h : ∀ i : Fin n, bit v (tab t (i.val + 1)) = bit u (i.val + 1)) : permute t v = u := by
  apply eq_of_bit_eq
  intro m h1 h2
  have hm : m - 1 + 1 = m := Nat.sub_add_cancel h1
  have hbit := h ⟨m - 1, by omega⟩
  rwa [hm, ← bit_permute t v h1 h2] at hbit

/-! ### The statements -/

/-- Settles O18: every output bit by `bit_permute`, whose two readings are one by R11; the long example position by
position. -/
theorem permuteSelectsListedPositions : Obligations.PermuteSelectsListedPositions := by
  refine ⟨fun w n t v m h1 h2 => ⟨bit_permute t v h1 h2, bit_permute t v h1 h2⟩,
    fun w n t => ⟨permute_zero t, permute_allOnes t⟩, ?_, ?_, ?_, permute_eq_of_bits IP (by decide)⟩
  all_goals
    rintro ⟨l, hlen, hrange⟩ rfl
    rfl

/-- Settles O19: every position of the identity table is its own entry. -/
theorem identityTablePermutesToItself : Obligations.IdentityTablePermutesToItself := by
  intro w t v ht
  apply eq_of_bit_eq
  intro m h1 h2
  rw [bit_permute t v h1 h2, tab_of_entries_eq_range' ht h1 h2]

/-- Settles O20: each law from the lemma on it; the inverse law turns the left inverse into a right inverse first. -/
theorem permutationLaws : Obligations.PermutationLaws :=
  ⟨fun _ _ t a b => ⟨permute_xor t a b, permute_zero t⟩,
    fun _ _ _ _ _ _ v h => permute_permute h v,
    fun _ t u v h => permute_permute_of_tab t u v (tab_rightInverse_of_leftInverse h),
    tab_FP_tab_IP,
    fun _ _ t v _ _ hp hnot => (permute_xor_twoPow_of_notMem t v hp hnot).symm⟩

/-- Settles O22: all ones by `permute_allOnes`, each other image position by position. -/
theorem singleBitImagesOfTables : Obligations.SingleBitImagesOfTables :=
  ⟨permute_eq_of_bits IP (by decide), permute_eq_of_bits IP (by decide),
    permute_eq_of_bits FP (by decide), permute_eq_of_bits FP (by decide),
    permute_eq_of_bits E (by decide), permute_eq_of_bits E (by decide), permute_allOnes E,
    permute_eq_of_bits P (by decide), permute_eq_of_bits P (by decide),
    permute_eq_of_bits PC1 (by decide), permute_eq_of_bits PC1 (by decide), permute_allOnes PC1,
    permute_eq_of_bits PC1 (by decide), permute_eq_of_bits PC2 (by decide)⟩

end Sys2Proof.Machine
end

section
/-! PROOFS. The key schedule family, the rotator (R121, R122): where each bit goes, and how rotations compose. -/

namespace Sys2Proof.Machine

/-! ### Where a rotation puts each bit (R121) -/

/-- The bit of a rotation at DES position `p` is the value's bit `n` positions further on, cyclically. -/
theorem bit_rotl28 (x : KeyHalf) (n : Fin 28) {p : Nat} (h1 : 1 ≤ p) (h2 : p ≤ 28) :
    bit (rotl28 x n) p = bit x ((p - 1 + n.val) % 28 + 1) := by
  have hp : p - 1 < 28 := by omega
  have hq : (p - 1 + n.val) % 28 < 28 := Nat.mod_lt _ (by decide)
  rw [bit_eq_getMsbD _ h1 h2, bit_eq_getMsbD x (Nat.le_add_left 1 _) hq, rotl28_eq_rotateLeft,
    BitVec.getMsbD_rotateLeft, decide_eq_true hp, Bool.true_and, Nat.add_sub_cancel, Nat.add_comm]

/-- The same in vector indices: the bit at `k` moves up to (k + n) mod 28. -/
theorem getLsbD_rotl28 (x : KeyHalf) (n : Fin 28) {k : Nat} (hk : k < 28) :
    (rotl28 x n).getLsbD ((k + n.val) % 28) = x.getLsbD k := by
  have hp : 28 - (28 - (k + n.val) % 28) = (k + n.val) % 28 := by omega
  have hq : 28 - ((28 - (k + n.val) % 28 - 1 + n.val) % 28 + 1) = k := by omega
  have h := bit_rotl28 x n (p := 28 - (k + n.val) % 28) (by omega) (Nat.sub_le _ _)
  simpa only [bit, hp, hq] using h

@[simp] theorem rotl28_zero_value (n : Fin 28) : rotl28 0#28 n = 0#28 :=
  eq_of_bit_eq fun p h1 h2 => by rw [bit_rotl28 _ n h1 h2, bit_zero, bit_zero]

@[simp] theorem rotl28_allOnes (n : Fin 28) : rotl28 (BitVec.allOnes 28) n = BitVec.allOnes 28 := by
  apply eq_of_bit_eq
  intro p h1 h2
  have hq : (p - 1 + n.val) % 28 < 28 := Nat.mod_lt _ (by decide)
  rw [bit_rotl28 _ n h1 h2, bit_allOnes (Nat.succ_pos _) hq, bit_allOnes h1 h2]

/-- Settles O23: every bit by `bit_rotl28` and `getLsbD_rotl28`, the examples by evaluation. -/
theorem rotationMovesEveryBit : Obligations.RotationMovesEveryBit :=
  ⟨fun x n _ hk => getLsbD_rotl28 x n hk, fun x n _ h1 h2 => bit_rotl28 x n h1 h2, rotl28_zero,
    fun n => ⟨rotl28_zero_value n, rotl28_allOnes n⟩, by decide, by decide, by decide, by decide, by decide, by decide⟩

/-! ### Composition and inverse (R122) -/

/-- Amounts that add up to a multiple of 28 undo each other. -/
theorem rotl28_rotl28_of_add_eq_zero (x : KeyHalf) {a b : Fin 28} (h : a + b = 0) : rotl28 (rotl28 x a) b = x := by
  rw [rotl28_rotl28, h, rotl28_zero]

theorem rotl28_bijective (n : Fin 28) : Function.Bijective fun x : KeyHalf => rotl28 x n :=
  Function.bijective_iff_has_inverse.mpr ⟨fun x => rotl28 x (-n),
    fun x => rotl28_rotl28_of_add_eq_zero x (add_neg_cancel n),
    fun x => rotl28_rotl28_of_add_eq_zero x (neg_add_cancel n)⟩

/-- `k` single rotations are one rotation by `k` mod 28. -/
theorem rotl28_one_iterate (k : Nat) (x : KeyHalf) :
    (fun y : KeyHalf => rotl28 y 1)^[k] x = rotl28 x (Fin.ofNat 28 k) := by
  induction k with
  | zero => exact (rotl28_zero x).symm
  | succ k ih =>
    have hk : Fin.ofNat 28 k + 1 = Fin.ofNat 28 (k + 1) := by
      apply Fin.ext
      rw [Fin.val_add, Fin.val_ofNat, Fin.val_ofNat, Fin.val_one]
      omega
    rw [Function.iterate_succ_apply', ih, rotl28_rotl28, hk]

/-- Settles O24: amounts add modulo 28, and complementary amounts undo each other. -/
theorem rotationsCompose : Obligations.RotationsCompose := by
  refine ⟨fun x a b c hc => ?_, fun x n m hm => ?_, rotl28_bijective, fun x => ?_⟩
  · have habc : a + b = c := Fin.ext ((Fin.val_add a b).trans hc.symm)
    rw [rotl28_rotl28, habc]
  · have hnm : n + m = 0 := Fin.ext (by rw [Fin.val_add, hm, Fin.val_zero]; omega)
    exact ⟨rotl28_rotl28_of_add_eq_zero x hnm, rotl28_rotl28_of_add_eq_zero x (by rw [add_comm, hnm])⟩
  · exact (rotl28_one_iterate 28 x).trans (rotl28_zero x)

end Sys2Proof.Machine
end

section
/-! PROOFS. The key schedule family, subkeys and halves (R123 to R126, R130): `PC2` keeps the halves apart, the
cumulative amounts, the schedule of the known key, and the parity positions that `PC1` does not select. -/

namespace Sys2Proof.Machine

/-! ### DES positions in a concatenation and in a slice (R11, R13) -/

theorem bit_append_left {a b : Nat} (u : BitVec a) (v : BitVec b) {p : Nat} (h : p ≤ a) :
    bit (u ++ v) p = bit u p := by
  have hi : a + b - p - b = a - p := by omega
  rw [bit, bit, BitVec.getLsbD_append, if_neg (by omega), hi]

theorem bit_append_right {a b : Nat} (u : BitVec a) (v : BitVec b) {p : Nat} (h1 : a < p) (h2 : p ≤ a + b) :
    bit (u ++ v) p = bit v (p - a) := by
  have hi : a + b - p = b - (p - a) := by omega
  rw [bit, bit, BitVec.getLsbD_append, if_pos (by omega), hi]

/-- Position `p` of a slice is as many positions further on in the value as the slice leaves out above it. -/
theorem bit_extractLsb' {w start len : Nat} (v : BitVec w) (hw : start + len ≤ w) {p : Nat} (h1 : 1 ≤ p)
    (h2 : p ≤ len) : bit (v.extractLsb' start len) p = bit v (w - (start + len) + p) := by
  have hi : start + (len - p) = w - (w - (start + len) + p) := by omega
  rw [bit, bit, BitVec.getLsbD_extractLsb', decide_eq_true (by omega), Bool.true_and, hi]

/-! ### Subkeys (R124) -/

/-- The first 24 entries of `PC2` are positions of `c` (R50). -/
theorem tab_PC2_le {m : Nat} (h1 : 1 ≤ m) (h2 : m ≤ 24) : tab PC2 m ≤ 28 := by
  interval_cases m <;> decide

/-- The last 24 entries of `PC2` are positions of `d` (R50). -/
theorem lt_tab_PC2 {m : Nat} (h1 : 24 < m) (h2 : m ≤ 48) : 28 < tab PC2 m := by
  interval_cases m <;> decide

theorem bit_subkey (c d : KeyHalf) {m : Nat} (h1 : 1 ≤ m) (h2 : m ≤ 48) :
    bit (subkey c d) m = bit (c ++ d) (tab PC2 m) := bit_permute PC2 _ h1 h2

theorem bit_subkey_left (c d : KeyHalf) {m : Nat} (h1 : 1 ≤ m) (h2 : m ≤ 24) :
    bit (subkey c d) m = bit c (tab PC2 m) := by
  rw [bit_subkey c d h1 (by omega), bit_append_left c d (tab_PC2_le h1 h2)]

theorem bit_subkey_right (c d : KeyHalf) {m : Nat} (h1 : 24 < m) (h2 : m ≤ 48) :
    bit (subkey c d) m = bit d (tab PC2 m - 28) := by
  have hle : tab PC2 m ≤ 56 := (tab_mem_range PC2 (by omega) h2).2
  rw [bit_subkey c d (by omega) h2, bit_append_right c d (lt_tab_PC2 h1 h2) hle]

theorem extractLsb'_subkey_left (c d d' : KeyHalf) :
    (subkey c d).extractLsb' 24 24 = (subkey c d').extractLsb' 24 24 := by
  apply eq_of_bit_eq
  intro p h1 h2
  rw [bit_extractLsb' _ (by decide) h1 h2, bit_extractLsb' _ (by decide) h1 h2,
    bit_subkey_left c d (by omega) (by omega), bit_subkey_left c d' (by omega) (by omega)]

theorem extractLsb'_subkey_right (c c' d : KeyHalf) :
    (subkey c d).extractLsb' 0 24 = (subkey c' d).extractLsb' 0 24 := by
  apply eq_of_bit_eq
  intro p h1 h2
  rw [bit_extractLsb' _ (by decide) h1 h2, bit_extractLsb' _ (by decide) h1 h2,
    bit_subkey_right c d (by omega) (by omega), bit_subkey_right c' d (by omega) (by omega)]

/-- Settles O25: `PC2` takes its first 24 positions from `c` and its last 24 from `d`; the examples by the laws of
`permute` and position by position. -/
theorem subkeyHalvesStaySeparate : Obligations.SubkeyHalvesStaySeparate :=
  ⟨fun _ _ => rfl, extractLsb'_subkey_left, extractLsb'_subkey_right, permute_zero PC2, permute_allOnes PC2,
    permute_eq_of_bits PC2 (by decide)⟩

/-! ### The halves of each round (R123, R126) -/

/-- The cumulative amounts of R123, modulo 28. -/
theorem rotationAfter_val (n : Nat) (h : n ≤ 16) :
    (rotationAfter n h).val =
      [0, 1, 2, 4, 6, 8, 10, 12, 14, 15, 17, 19, 21, 23, 25, 27, 28].getD n 0 % 28 := by
  interval_cases n <;> rfl

/-- Settles O26: the step by the recursion of `halvesAfter`, the closed form by the cumulative amounts. -/
theorem keyHalvesAreCumulativeRotations : Obligations.KeyHalvesAreCumulativeRotations := by
  refine ⟨fun key n h h' h'' => rfl, fun key n h m hm => ?_, by decide⟩
  have hr : rotationAfter n h = m := Fin.ext ((rotationAfter_val n h).trans hm.symm)
  rw [halvesAfter_eq_rotl28, hr]

/-- Settles O27: sixteen by the type of the schedule, the return by the total rotation of 28. -/
theorem scheduleReturnsToItsStart : Obligations.ScheduleReturnsToItsStart :=
  fun key => ⟨Vector.length_toList, halvesAfter_sixteen key⟩

/-! ### The schedule depends on the key through (C0, D0) alone (R125) -/

theorem subkeyOf_eq_rotl28 (key : Key) (r : Round) :
    subkeyOf key r =
      subkey (rotl28 (pc1Split key).1 (rotationAfter (r.val + 1) r.isLt))
        (rotl28 (pc1Split key).2 (rotationAfter (r.val + 1) r.isLt)) := by
  rw [subkeyOf, halvesAfter_eq_rotl28]

theorem generateSubkeys_getElem (key : Key) {n : Nat} (h : n < 16) :
    (generateSubkeys key)[n] = subkeyOf key ⟨n, h⟩ := by
  simp only [generateSubkeys, Vector.getElem_ofFn]

theorem generateSubkeys_congr {k k' : Key} (h : pc1Split k = pc1Split k') : generateSubkeys k = generateSubkeys k' :=
  Vector.ext fun n hn => by
    rw [generateSubkeys_getElem k hn, generateSubkeys_getElem k' hn, subkeyOf_eq_rotl28, subkeyOf_eq_rotl28, h]

/-! ### The parity positions (R130) -/

/-- `PC1` selects none of the eight parity positions: the mask of R130 is 1 wherever it does select (R49). -/
theorem bit_nonParity_of_mem_PC1 : ∀ p ∈ PC1.entries, bit 0xFEFEFEFEFEFEFEFE#64 p = true := by decide

/-- Inverting parity positions only leaves (C0, D0) as it is. -/
theorem pc1Split_xor_parity {k m : Key} (h : m &&& 0xFEFEFEFEFEFEFEFE#64 = 0#64) : pc1Split (k ^^^ m) = pc1Split k := by
  have hpc1 : permute PC1 (k ^^^ m) = permute PC1 k := by
    apply permute_congr
    intro p hp
    have hmask : (bit m p && bit 0xFEFEFEFEFEFEFEFE#64 p) = false := by
      rw [bit, bit, ← BitVec.getLsbD_and, h, BitVec.getLsbD_zero]
    rw [bit_nonParity_of_mem_PC1 p hp, Bool.and_true] at hmask
    rw [bit_xor, hmask, Bool.xor_false]
  rw [pc1Split, pc1Split, pc1perm, pc1perm, hpc1]

theorem generateSubkeys_xor_parity {k m : Key} (h : m &&& 0xFEFEFEFEFEFEFEFE#64 = 0#64) :
    generateSubkeys (k ^^^ m) = generateSubkeys k :=
  generateSubkeys_congr (pc1Split_xor_parity h)

/-- Settles O29: the subkeys by `generateSubkeys_xor_parity`, through which alone the results depend on the key; the
example's keys differ in all eight parity positions. -/
theorem parityBitsHaveNoEffect : Obligations.ParityBitsHaveNoEffect := by
  refine ⟨fun k m h => ?_, ?_⟩
  · have hkeys := generateSubkeys_xor_parity (k := k) h
    exact ⟨hkeys, fun t b => ⟨by rw [encrypt, encrypt, hkeys], by rw [decrypt, decrypt, hkeys]⟩⟩
  · exact generateSubkeys_xor_parity (k := 0x133457799BBCDFF1#64) (m := 0x0101010101010101#64) (by decide)

/-! ### The known key (R125) -/

theorem pc1Split_knownKey : pc1Split 0x133457799BBCDFF1#64 = (0xF0CCAAF#28, 0x556678F#28) := by
  have hcd : pc1perm 0x133457799BBCDFF1#64 = 0xF0CCAAF556678F#56 := permute_eq_of_bits PC1 (by decide)
  rw [pc1Split, hcd]
  decide

/-- Settles O28: the halves are the known C0 and D0 rotated by each cumulative amount, and each subkey is `PC2` of them,
position by position. -/
theorem scheduleOfKnownKey : Obligations.ScheduleOfKnownKey := by
  refine ⟨List.ext_getElem Vector.length_toList fun n hn _ => ?_, fun n h => ?_⟩
  · rw [Vector.length_toList] at hn
    rw [Vector.getElem_toList, generateSubkeys_getElem _ hn, subkeyOf_eq_rotl28, pc1Split_knownKey]
    interval_cases n <;> exact permute_eq_of_bits PC2 (by decide +revert)
  · rw [halvesAfter_eq_rotl28, pc1Split_knownKey]
    interval_cases n <;> decide +revert

end Sys2Proof.Machine
end

section
/-! PROOFS. The key schedule family, the steps (R128, R129, R160): the micro-step `KS` field by field, and that every
step keeps the command that the registers carry. -/

namespace Sys2Proof.Machine

/-! ### The micro-step `KS` (R128) -/

/-- A field that holds the number of the round `r` runs `KS` for `r`. -/
theorem exec_ks_of_round (s : State) {i : BitVec 5} {r : Round} (h : i.toNat = roundNumber r) :
    exec (.ks i) s = .next (s.keyStep r) := by
  simp only [exec, execKs, (roundOf_eq_some_iff i r).mpr h]

/-- Every field after `KS` for the round that `i` holds: at round 16 the rounds begin, before it `I` counts on. -/
theorem State.keyStep_eq (s : State) {i : BitVec 5} {r : Round} (h : i.toNat = roundNumber r) :
    s.keyStep r = { s with
      C := rotl28 s.C (shiftOf r), D := rotl28 s.D (shiftOf r)
      K := s.K.set r.val (subkey (rotl28 s.C (shiftOf r)) (rotl28 s.D (shiftOf r))) r.isLt
      PHASE := if i = 16#5 then .rnd else s.PHASE, I := if i = 16#5 then 1#5 else i + 1#5 } := by
  have hlast : roundNumber r = 16 ↔ i = 16#5 := by
    rw [← h]
    exact ⟨fun hi => BitVec.eq_of_toNat_eq hi, fun hi => by rw [hi]; rfl⟩
  have hnext : BitVec.ofNat 5 (roundNumber r + 1) = i + 1#5 := by
    rw [BitVec.ofNat_add, ← h, BitVec.ofNat_toNat, BitVec.setWidth_eq]
  unfold State.keyStep
  dsimp only
  by_cases hi : i = 16#5
  · rw [if_pos (hlast.mpr hi), if_pos hi, if_pos hi]; rfl
  · rw [if_neg (mt hlast.mp hi), if_neg hi, if_neg hi, hnext]; rfl

/-- The KS phase selects the row `KS` when `rst` = 0 (R91). -/
theorem decode_of_ks {s : State} (hr : s.pins.rst = false) (hp : s.PHASE = .ks) : decode (stepWord s) = .ks s.I := by
  simp only [decode_stepWord, hr, hp, Bool.false_eq_true, if_false]

/-- Settles O12: the fields by `keyStep_eq`, the step by the decoded row, round 1 of the known key by the fields. -/
theorem ksRotatesAndStoresSubkey : Obligations.KsRotatesAndStoresSubkey := by
  refine ⟨fun s i r hi => ?_, fun s t hl hr hp ht => ?_, fun s hp hc hd => ?_⟩
  · rw [exec_ks_of_round s hi, s.keyStep_eq hi]
    rfl
  · exact step_of_exec (.inl hl) (by rw [decode_of_ks hr hp, ht])
  · have hc' : rotl28 s.C (shiftOf 0) = 0xE19955F#28 := by rw [hc]; decide
    have hd' : rotl28 s.D (shiftOf 0) = 0xAACCF1E#28 := by rw [hd]; decide
    have hk : subkey 0xE19955F#28 0xAACCF1E#28 = 0x1B02EFFC7072#48 := permute_eq_of_bits PC2 (by decide)
    refine ⟨s.keyStep 0, exec_ks_of_round s rfl, (s.keyStep_C 0).trans hc', (s.keyStep_D 0).trans hd', ?_, ?_, ?_⟩
    · simp only [State.keyStep_K, hc', hd', hk]
      exact Vector.getElem_set_self _
    · rw [s.keyStep_eq (i := 1#5) rfl]; rfl
    · rw [s.keyStep_eq (i := 1#5) rfl]; exact hp

/-! ### Carrying a command is being some number of edges into it (R129, R160, R177) -/

section
variable {s : State} {dec : Bool} {block : Block} {key : Key}

theorem State.carries_iff_afterEdges : s.carries dec block key ↔ ∃ n, s.afterEdges dec block key n := by
  constructor
  · intro h
    cases hp : s.PHASE <;> simp only [State.carries, hp] at h
    case idle => exact ⟨34, .inr (.inr (.inr ⟨rfl, h⟩))⟩
    case ks =>
      obtain ⟨m, hm, h⟩ := h
      exact ⟨m + 1, .inl ⟨m, hm, rfl, h⟩⟩
    case rnd =>
      obtain ⟨m, hm, h⟩ := h
      exact ⟨m + 17, .inr (.inl ⟨m, hm, rfl, h⟩)⟩
    case fin => exact ⟨33, .inr (.inr (.inl ⟨rfl, h⟩))⟩
  · rintro ⟨n, ⟨m, hm, -, h⟩ | ⟨m, hm, -, h⟩ | ⟨-, h⟩ | ⟨-, h⟩⟩
    · simp only [State.carries, h.1]; exact ⟨m, hm, h⟩
    · simp only [State.carries, h.1]; exact ⟨m, hm, h⟩
    · simp only [State.carries, h.1]; exact h
    · simp only [State.carries, h.1]; exact h

theorem State.onCommand.carries {x : SBox} {n : Nat} (hs : s.onCommand x dec block key n) :
    s.carries dec block key := by
  obtain ⟨-, -, hafter⟩ := hs
  rw [State.carries_iff_afterEdges]
  exact ⟨n, hafter⟩

theorem State.carries.exists_onCommand (h : s.carries dec block key) (hl : s.live = true) :
    ∃ n, s.onCommand s.sbox dec block key n := by
  rw [State.carries_iff_afterEdges] at h
  obtain ⟨n, hn⟩ := h
  exact ⟨n, hl, rfl, hn⟩

/-- The host's side of an edge does not show in what a state carries. -/
@[simp] theorem State.carries_nextPins : s.nextPins.carries dec block key ↔ s.carries dec block key := by
  obtain ⟨p, ps, h⟩ := s.nextPins_cases
  rw [h]
  exact Iff.rfl

/-- With `DONE` = 1 a carried command is one that has delivered (R38). -/
theorem State.carries.delivered (h : s.carries dec block key) (hl : s.live = true) (hd : s.DONE = true) :
    s.delivered dec block key := by
  obtain ⟨n, hn⟩ := h.exists_onCommand hl
  obtain rfl : n = 34 := hn.done_iff.mp hd
  exact hn.delivered

end

/-! ### Every step keeps the command (R129, R160) -/

/-- Settles O45: the accepting edge is the first edge of the command, and it leads to (KS, 1). -/
theorem acceptBeginsCarriedCommand : Obligations.AcceptBeginsCarriedCommand := by
  rintro s ⟨hl, hp⟩ ⟨hr, hs⟩
  refine ⟨_, step_of_idle_request hl hr hp hs, ?_, ?_, ?_⟩
  · rw [State.carries_nextPins]
    exact ⟨0, by decide, s.accept_inSchedule _ _ _⟩
  · rw [State.nextPins_PHASE]; rfl
  · rw [State.nextPins_I]; rfl

/-- Settles O46: before the 34th edge the step is the command's next edge; after it the state is idle and the step is a
NOP. -/
theorem everyStepKeepsCarriedCommand : Obligations.EveryStepKeepsCarriedCommand := by
  intro s dec block key hl hr h hidle
  obtain ⟨n, hn⟩ := h.exists_onCommand hl
  rcases Nat.lt_or_eq_of_le hn.bounds.2 with hlt | rfl
  · obtain ⟨t, ht, hcmd⟩ := hn.exists_step hlt hr
    exact ⟨t, ht, hcmd.carries⟩
  · have hp : s.PHASE = .idle := hn.ready.2
    exact ⟨_, step_of_idle_nop hl hr hp (hidle hp), by rwa [State.carries_nextPins]⟩

/-! ### Every specified state is explained (R129, R160, R217) -/

theorem State.explained_of_zero {s : State} (h : s.toRegisters = Registers.zero) : s.explained := fun _ => .inl h

theorem State.carries.explained {s : State} {dec : Bool} {block : Block} {key : Key} (h : s.carries dec block key) :
    s.explained := fun _ => .inr ⟨dec, block, key, h⟩

/-- A step that accepts a request leads to an explained state, whatever the registers held. -/
theorem explained_of_accept {s t : State} (hs : s.ready) (hq : s.pins.requests) (h : step s = .next t) :
    t.explained := by
  obtain ⟨u, hu, hcarries, -⟩ := acceptBeginsCarriedCommand s hs hq
  obtain rfl : u = t := Host.Outcome.next.inj (hu.symm.trans h)
  exact hcarries.explained

/-- A step that neither resets nor accepts keeps the reset values and keeps the command. -/
theorem explained_of_noAccept {s t : State} (hs : s.explained) (hl : s.live = true) (hr : s.pins.rst = false)
    (hidle : s.PHASE = .idle → s.pins.start = false) (h : step s = .next t) : t.explained := by
  rcases hs hl with hzero | ⟨dec, block, key, hcarries⟩
  · have hp : s.PHASE = .idle := congrArg Registers.PHASE hzero
    obtain rfl : s.nextPins = t := Host.Outcome.next.inj ((step_of_idle_nop hl hr hp (hidle hp)).symm.trans h)
    exact State.explained_of_zero (s.nextPins_toRegisters.trans hzero)
  · obtain ⟨u, hu, hcarries'⟩ := everyStepKeepsCarriedCommand s dec block key hl hr hcarries hidle
    obtain rfl : u = t := Host.Outcome.next.inj (hu.symm.trans h)
    exact hcarries'.explained

/-- A step is a reset, accepts a request, or keeps what the registers hold. -/
theorem explained_of_step {s t : State} (hs : s.explained) (h : step s = .next t) : t.explained := by
  cases hr : s.pins.rst with
  | true =>
    obtain rfl : s.resetRegisters.nextPins = t := Host.Outcome.next.inj ((step_of_rst hr).symm.trans h)
    exact State.explained_of_zero (State.nextPins_toRegisters _)
  | false =>
    have hl : s.live = true := by simpa [hr] using (step_next_cases h).1
    by_cases hq : s.PHASE = .idle ∧ s.pins.start = true
    · exact explained_of_accept ⟨hl, hq.1⟩ ⟨hr, hq.2⟩ h
    · exact explained_of_noAccept hs hl hr (fun hp => by simpa [hp] using hq) h

/-- Settles O48: the invariant by `explained_of_step`; with `DONE` = 1 the registers are not the reset values, so they
are those of a delivered command. -/
theorem everyStepKeepsExplanation : Obligations.EveryStepKeepsExplanation := by
  refine ⟨fun s t hs h => explained_of_step hs h, fun s hs hl hd => ?_⟩
  rcases hs hl with hzero | ⟨dec, block, key, h⟩
  · have hd' : s.DONE = false := congrArg Registers.DONE hzero
    exact absurd (hd'.symm.trans hd) Bool.false_ne_true
  · obtain ⟨-, -, -, ⟨rfl, -, hkeys⟩, -, hout⟩ := h.delivered hl hd
    exact ⟨block, key, hout, hkeys⟩

end Sys2Proof.Machine
end

section
/-! PROOFS. The round-function family (R135, R142, R144): where the expansion takes each bit from, the six steps of `f`
as one equation, values of `f` step by step, and which functions are linear over xor. -/

namespace Sys2Proof.Machine

/-! ### The expansion (R135) -/

/-- Entry m of group j of `E` is position 4j + m, where 0 stands for 32 and 33 for 1 (R47). -/
theorem tab_E : ∀ (j : Fin 8) (m : Fin 6), tab E (6 * j.val + m.val + 1) =
    if 4 * j.val + m.val = 0 then 32 else if 4 * j.val + m.val = 33 then 1 else 4 * j.val + m.val := by decide

theorem bit_expand (r : Half) {j m : Nat} (hj : j < 8) (hm : m < 6) : bit (expand r) (6 * j + m + 1) =
    bit r (if 4 * j + m = 0 then 32 else if 4 * j + m = 33 then 1 else 4 * j + m) := by
  rw [expand, bit_permute E r (by omega) (by omega), tab_E ⟨j, hj⟩ ⟨m, hm⟩]

/-- Settles O30: every group by the entries of `E`, the corner cases and the example by the laws of `permute`. -/
theorem expansionGroupsOverlap : Obligations.ExpansionGroupsOverlap :=
  ⟨fun _ => rfl, fun r _ _ hj hm => bit_expand r hj hm, permute_zero E, permute_allOnes E,
    permute_eq_of_bits E (by decide), permute_eq_of_bits E (by decide), permute_eq_of_bits E (by decide)⟩

/-! ### The six steps of `f` (R142) -/

/-- The S-box array is the eight boxes, each indexed by its own chunk (R139, R140). -/
theorem substitute_eq_lut (t : SBox) (x : Subkey) :
    substitute t x = lut t 0 (chunk x 0) ++ lut t 1 (chunk x 1) ++ lut t 2 (chunk x 2) ++ lut t 3 (chunk x 3) ++
      lut t 4 (chunk x 4) ++ lut t 5 (chunk x 5) ++ lut t 6 (chunk x 6) ++ lut t 7 (chunk x 7) := by
  simp only [substitute, sboxLane_eq_lut]

/-- A value of `f` by its intermediate values: the expansion `e` and the S-box output `s` (the columns of V25). For
closed values each step is a small evaluation, the two permutations position by position. -/
theorem f_eq_of_steps {t : SBox} {r : Half} {k : Subkey} (e : Subkey) (s : Half) {y : Half}
    (he : ∀ i : Fin 48, bit r (tab E (i.val + 1)) = bit e (i.val + 1))
    (hs : substitute t (e ^^^ k) = s)
    (hy : ∀ i : Fin 32, bit s (tab P (i.val + 1)) = bit y (i.val + 1)) : f t r k = y := by
  rw [f, expand, permute_eq_of_bits E he, keyMix, hs]
  exact permute_eq_of_bits P hy

/-- Settles O33: the steps by `substitute_eq_lut`, the rest of the formula being `f`'s own; the values by the
intermediate ones that V25 lists. -/
theorem roundFunctionComposesSixSteps : Obligations.RoundFunctionComposesSixSteps := by
  refine ⟨fun t r k => ?_,
    f_eq_of_steps 0#48 0xEFA72C4D#32 (by decide) (by decide) (by decide),
    f_eq_of_steps 0xFFFFFFFFFFFF#48 0xEFA72C4D#32 (by decide) (by decide) (by decide),
    f_eq_of_steps 0#48 0xD9CE3DCB#32 (by decide) (by decide) (by decide),
    f_eq_of_steps 0x7A15557A1555#48 0x5C82B597#32 (by decide) (by decide) (by decide),
    f_eq_of_steps 0x7A15557A1555#48 0x5A7AF862#32 (by decide) (by decide) (by decide)⟩
  rw [f, substitute_eq_lut]
  rfl

/-! ### Linearity and its failure (R144) -/

theorem expand_xor (x y : Half) : expand (x ^^^ y) = expand x ^^^ expand y := permute_xor E x y

theorem pperm_xor (x y : Half) : pperm (x ^^^ y) = pperm x ^^^ pperm y := permute_xor P x y

theorem rotl28_xor (x y : KeyHalf) (n : Fin 28) : rotl28 (x ^^^ y) n = rotl28 x n ^^^ rotl28 y n :=
  eq_of_bit_eq fun _ h1 h2 => by simp only [bit_rotl28 _ n h1 h2, bit_xor]

/-- Settles O34: the six values of V26 step by step, and the linear functions by their laws over xor. -/
theorem roundFunctionIsNotLinear : Obligations.RoundFunctionIsNotLinear := by
  have hStdA : f SBOX_STD 0x12345678#32 0#48 = 0x5101D5DD#32 :=
    f_eq_of_steps 0x0A41A82AC3F0#48 0x47ECACA0#32 (by decide) (by decide) (by decide)
  have hStdB : f SBOX_STD 0x0F0F0F0F#32 0#48 = 0xF5FABEE2#32 :=
    f_eq_of_steps 0x85E85E85E85E#48 0xFA1FBB67#32 (by decide) (by decide) (by decide)
  have hRepA : f (SBOX_REP S1) 0x12345678#32 0#48 = 0xEF2E98F0#32 :=
    f_eq_of_steps 0x0A41A82AC3F0#48 0x4E1DF21F#32 (by decide) (by decide) (by decide)
  have hRepB : f (SBOX_REP S1) 0x0F0F0F0F#32 0#48 = 0xE7F7FFBF#32 :=
    f_eq_of_steps 0x85E85E85E85E#48 0xF7F7F7F7#32 (by decide) (by decide) (by decide)
  refine ⟨f_eq_of_steps 0x8FA9F6AF2BAE#48 0xC30EE0E2#32 (by decide) (by decide) (by decide), ?_,
    f_eq_of_steps 0x8FA9F6AF2BAE#48 0xCA279CBB#32 (by decide) (by decide) (by decide), ?_,
    rotl28_xor, fun x y => ⟨expand_xor x y, pperm_xor x y⟩⟩
  · rw [hStdA, hStdB]; decide
  · rw [hRepA, hRepB]; decide

end Sys2Proof.Machine
end

section
/-! PROOFS. The Feistel driver family (R151, R155, R156, R158, R159): the inverse of a round and of the network, and the
micro-steps `RND` and `FIN` field by field. -/

namespace Sys2Proof.Machine

/-! ### The permutations around the network (R156) -/

/-- Settles O21: the tables lead each position back to itself, so `permute` through both gives the value back. -/
theorem finalPermutationInvertsInitial : Obligations.FinalPermutationInvertsInitial :=
  ⟨tab_FP_tab_IP, fun v => ⟨fperm_iperm v, iperm_fperm v⟩⟩

/-! ### A round and its inverse (R151) -/

/-- A round is undone by the round on exchanged pairs with the same subkey. -/
theorem feistelRound_eq_iff (t : SBox) (k : Subkey) (lr lr' : Half × Half) :
    feistelRound t lr k = lr' ↔ lr = (feistelRound t lr'.swap k).swap := by
  constructor
  · rintro rfl
    rw [feistelRound_swap, Prod.swap_swap]
  · rintro rfl
    rw [feistelRound_swap, Prod.swap_swap]

theorem feistelRound_bijective (t : SBox) (k : Subkey) :
    Function.Bijective fun lr : Half × Half => feistelRound t lr k :=
  (Function.bijective_iff_existsUnique _).mpr fun lr' =>
    ⟨_, (feistelRound_eq_iff t k _ lr').mpr rfl, fun lr h => (feistelRound_eq_iff t k lr lr').mp h⟩

/-- `f` in round 1 of the known key and block (R142). -/
theorem f_knownRound : f SBOX_STD 0xF0AAF0AA#32 0x1B02EFFC7072#48 = 0x234AA9BB#32 := by
  obtain ⟨-, -, -, -, hf, -⟩ := roundFunctionComposesSixSteps
  exact hf

/-- Settles O35: the inverse by `feistelRound_eq_iff`, which also gives each pair its one preimage. -/
theorem feistelRoundIsInvertible : Obligations.FeistelRoundIsInvertible := by
  refine ⟨fun _ _ _ _ => rfl, fun t k l r l' r' => feistelRound_eq_iff t k (l, r) (l', r'), feistelRound_bijective, ?_⟩
  rw [feistelRound, f_knownRound]
  decide

/-! ### The network and its inverse (R155) -/

/-- The second pass starts from the last pair of the first, exchanged. -/
theorem ipSplit_feistel (t : SBox) (b : Block) (q : RoundKeys) :
    ipSplit (feistel t b q) = (pairAfter t (ipSplit b) q 16 (Nat.le_refl 16)).swap :=
  ipSplit_fperm_combine _

/-- Settles O36: the network by `feistel_reversed`, the pairs on the way by `pairAfter_reversed`. -/
theorem reversedSubkeysInvertFeistel : Obligations.ReversedSubkeysInvertFeistel := by
  refine fun t b q q' hq => ⟨feistel_reversed hq t b, fun n h _ => ?_⟩
  rw [ipSplit_feistel]
  exact pairAfter_reversed hq t (ipSplit b) n h

/-! ### The micro-step `RND` (R158) -/

/-- A field that holds the number of the round `r` runs `RND` for `r`. -/
theorem exec_rnd_of_round (s : State) {i : BitVec 5} {r : Round} (h : i.toNat = roundNumber r) :
    exec (.rnd i) s = .next (s.feistelStep r) := by
  simp only [exec, execRnd, (roundOf_eq_some_iff i r).mpr h]

theorem roundNumber_eq_sixteen_iff {i : BitVec 5} {r : Round} (h : i.toNat = roundNumber r) :
    roundNumber r = 16 ↔ i = 16#5 := by
  rw [← h, BitVec.toNat_eq]
  rfl

theorem ofNat_roundNumber_succ {i : BitVec 5} {r : Round} (h : i.toNat = roundNumber r) :
    BitVec.ofNat 5 (roundNumber r + 1) = i + 1#5 := by
  rw [BitVec.ofNat_add, ← h, BitVec.ofNat_toNat, BitVec.setWidth_eq]

/-- Every field after `RND` for the round that `i` holds: at round 16 FIN is next, before it `I` counts on. -/
theorem State.feistelStep_eq (s : State) {i : BitVec 5} {r : Round} (h : i.toNat = roundNumber r) :
    s.feistelStep r = { s with
      L := s.R, R := s.L ^^^ f s.sbox s.R (s.readK (ksel s.DEC r))
      PHASE := if i = 16#5 then .fin else s.PHASE, I := if i = 16#5 then 0#5 else i + 1#5 } := by
  have hlast := roundNumber_eq_sixteen_iff h
  unfold State.feistelStep
  dsimp only
  by_cases hi : i = 16#5
  · rw [if_pos (hlast.mpr hi), if_pos hi, if_pos hi]; rfl
  · rw [if_neg (mt hlast.mp hi), if_neg hi, if_neg hi, ofNat_roundNumber_succ h]; rfl

/-- The round whose subkey is read has the number i when encrypting and 17 - i when decrypting (R96, R157). -/
theorem roundNumber_ksel (dec : Bool) (r : Round) :
    roundNumber (ksel dec r) = if dec then 17 - roundNumber r else roundNumber r := by
  cases dec with
  | false => rfl
  | true => exact roundNumber_ksel_true r

/-- The RND phase selects the row `RND` when `rst` = 0 (R91). -/
theorem decode_of_rnd {s : State} (hr : s.pins.rst = false) (hp : s.PHASE = .rnd) : decode (stepWord s) = .rnd s.I := by
  simp only [decode_stepWord, hr, hp, Bool.false_eq_true, if_false]

/-- Settles O13: the fields by `feistelStep_eq`, the step by the decoded row, round 1 of the known key by the fields. -/
theorem rndAppliesOneFeistelRound : Obligations.RndAppliesOneFeistelRound := by
  refine ⟨fun s i j h1 h16 hj => ?_, fun s t hl hr hp ht => ?_, fun s hp hx hd hl hr hk => ?_⟩
  · obtain ⟨r, hi⟩ : ∃ r : Round, i.toNat = roundNumber r :=
      ⟨⟨i.toNat - 1, by omega⟩, (Nat.sub_add_cancel h1).symm⟩
    have hsel : ksel s.DEC r = j := by
      rw [hi, ← roundNumber_ksel] at hj
      exact Fin.ext (Nat.succ.inj hj).symm
    rw [exec_rnd_of_round s hi, s.feistelStep_eq hi, hsel]
    rfl
  · exact step_of_exec (.inl hl) (by rw [decode_of_rnd hr hp, ht])
  · have hkey : s.readK (ksel s.DEC 0) = 0x1B02EFFC7072#48 := by
      rw [hd, ksel_false]
      exact hk
    have hR : (s.feistelStep 0).R = 0xEF4A6544#32 := by
      rw [s.feistelStep_R, hkey, hx, hl, hr, f_knownRound]
      decide
    refine ⟨s.feistelStep 0, exec_rnd_of_round s rfl, (s.feistelStep_L 0).trans hr, hR, ?_, ?_⟩
    · rw [s.feistelStep_eq (i := 1#5) rfl]; rfl
    · rw [s.feistelStep_eq (i := 1#5) rfl]; exact hp

/-! ### The micro-step `FIN` (R159) -/

/-- The FIN phase selects the row `FIN` when `rst` = 0 (R91). -/
theorem decode_of_fin {s : State} (hr : s.pins.rst = false) (hp : s.PHASE = .fin) : decode (stepWord s) = .fin := by
  simp only [decode_stepWord, hr, hp, Bool.false_eq_true, if_false]

theorem State.finish_OUT (s : State) : s.finish.OUT = fperm (combine s.L s.R) := rfl

/-- Settles O14: the fields are the register writes of FIN, the step is the decoded row, and the known result is `FP` of
the last pair, position by position. -/
theorem finDeliversPermutedHalves : Obligations.FinDeliversPermutedHalves := by
  refine ⟨fun _ => rfl, fun s t hl hr hp ht => ?_, fun s hL hR => ⟨s.finish, rfl, ?_, rfl, rfl, rfl⟩⟩
  · exact step_of_exec (.inl hl) (by rw [decode_of_fin hr hp, ht])
  · rw [s.finish_OUT, hL, hR]
    exact permute_eq_of_bits FP (by decide)

end Sys2Proof.Machine
end

section
/-! PROOFS. The commands family (R166, R169, R172 to R179, R182): the priority decode of the step, the public functions
as inverses of each other, and what a command shows and delivers. -/

namespace Sys2Proof.Machine

/-! ### The priority decode (R176) -/

/-- A specified state with a legal sequencing state is not stuck. -/
theorem exists_step_of_seqLegal {s : State} (hl : s.live = true) (hr : s.pins.rst = false) (hq : s.seqLegal = true) :
    ∃ t, step s = .next t := by
  cases hp : s.PHASE with
  | idle =>
    cases hs : s.pins.start with
    | false => exact ⟨_, step_of_idle_nop hl hr hp hs⟩
    | true => exact ⟨_, step_of_idle_request hl hr hp hs⟩
  | ks =>
    obtain ⟨r, hi⟩ := Registers.exists_round_of_seqLegal hq (.inl hp)
    exact ⟨_, step_of_ks hl hr hp hi⟩
  | rnd =>
    obtain ⟨r, hi⟩ := Registers.exists_round_of_seqLegal hq (.inr hp)
    exact ⟨_, step_of_rnd hl hr hp hi⟩
  | fin => exact ⟨_, step_of_fin hl hr hp⟩

/-- Settles O6: each arm by the lemma on its phase, and no legal state is stuck; before the first reset the step is
refused. -/
theorem stepFollowsPriorityDecode : Obligations.StepFollowsPriorityDecode := by
  refine ⟨fun s hr => step_of_rst hr, fun s hl hr => ?_, fun s hl hr t ht => ?_⟩
  · exact ⟨step_of_idle_nop hl hr, step_of_idle_request hl hr, fun _ hp hi => step_of_ks hl hr hp hi,
      fun _ hp hi => step_of_rnd hl hr hp hi, step_of_fin hl hr, exists_step_of_seqLegal hl hr⟩
  · rw [step_of_not_live hl hr] at ht
    cases ht

/-! ### NOP and ACCEPT (R166, R169) -/

/-- Settles O10: NOP's effect is the state itself, and `nextPins` leaves the registers alone. -/
theorem nopWritesNoRegister : Obligations.NopWritesNoRegister :=
  ⟨fun _ => rfl, fun s ⟨hl, hp⟩ hr hs =>
    ⟨_, step_of_idle_nop hl hr hp hs, s.nextPins_toRegisters, s.nextPins_DONE, s.nextPins_OUT⟩⟩

/-- A request in IDLE selects the row that `dec` says, with the ports' block and key (R91). -/
theorem decode_of_request {s : State} (hp : s.PHASE = .idle) (hq : s.pins.requests) :
    decode (stepWord s) =
      if s.pins.dec then .dec s.pins.block_in s.pins.key_in else .enc s.pins.block_in s.pins.key_in := by
  obtain ⟨hr, hs⟩ := hq
  simp only [decode_stepWord, hr, hp, hs, Bool.false_eq_true, if_false, if_true]

/-- (L0, R0) of the known block (R150). -/
theorem ipSplit_knownBlock : ipSplit 0x0123456789ABCDEF#64 = (0xCC00CCFF#32, 0xF0AAF0AA#32) := by
  have hlr : iperm 0x0123456789ABCDEF#64 = 0xCC00CCFFF0AAF0AA#64 := permute_eq_of_bits IP (by decide)
  rw [ipSplit, hlr]
  decide

/-- Settles O11: the fields are the register writes of ACCEPT, the step is the decoded row, and the example's halves are
those of the known key and block. -/
theorem acceptLoadsHalvesAndDirection : Obligations.AcceptLoadsHalvesAndDirection := by
  refine ⟨fun s block key => ⟨rfl, rfl⟩, fun s t ⟨hl, hp⟩ hq ht => ?_, fun s => ?_⟩
  · exact step_of_exec (.inl hl) (by rw [decode_of_request hp hq, ht])
  · obtain ⟨hc, hd⟩ := Prod.mk.inj pc1Split_knownKey
    obtain ⟨hl, hr⟩ := Prod.mk.inj ipSplit_knownBlock
    exact ⟨_, rfl, rfl, hc, hd, hl, hr, rfl, rfl, rfl⟩

/-! ### The public functions undo each other (R172) -/

/-- A schedule reversed twice is the schedule: each is the other reversed (R127). -/
theorem getElem_eq_reversedKeys (q : RoundKeys) (i : Fin 16) : q[i.val] = (reversedKeys q)[15 - i.val] := by
  have hi : 15 - (15 - i.val) = i.val := by omega
  rw [reversedKeys_getElem q ⟨15 - i.val, by omega⟩]
  simp only [hi]

/-- `encrypt` undoes `decrypt` (R172). -/
theorem encrypt_decrypt (t : SBox) (b : Block) (key : Key) : encrypt t (decrypt t b key) key = b :=
  feistel_reversed (getElem_eq_reversedKeys (generateSubkeys key)) t b

/-- Settles O37: the network with the subkeys in one order undoes it with the other, so each function has an inverse. -/
theorem decryptInvertsEncrypt : Obligations.DecryptInvertsEncrypt := fun t key =>
  ⟨fun b => ⟨decrypt_encrypt t b key, encrypt_decrypt t b key⟩,
    Function.bijective_iff_has_inverse.mpr
      ⟨fun b => decrypt t b key, fun b => decrypt_encrypt t b key, fun b => encrypt_decrypt t b key⟩,
    Function.bijective_iff_has_inverse.mpr
      ⟨fun b => encrypt t b key, fun b => encrypt_decrypt t b key, fun b => decrypt_encrypt t b key⟩⟩

/-! ### The known vector (R182), round by round -/

/-- The schedule of the known key (R125). -/
def knownSubkeys : RoundKeys :=
  #v[0x1B02EFFC7072, 0x79AED9DBC9E5, 0x55FC8A42CF99, 0x72ADD6DB351D, 0x7CEC07EB53A8, 0x63A53E507B2F, 0xEC84B7F618BC,
    0xF78A3AC13BFB, 0xE0DBEBEDE781, 0xB1F347BA464F, 0x215FD3DED386, 0x7571F59467E9, 0x97C5D1FABA41, 0x5F43B7F2E73A,
    0xBF918D3D3F0A, 0xCB3D8B0E17F5]

theorem generateSubkeys_knownKey : generateSubkeys 0x133457799BBCDFF1#64 = knownSubkeys := by
  obtain ⟨hkeys, -⟩ := scheduleOfKnownKey
  exact Vector.toList_inj.mp hkeys

/-- Halves that the rounds of the network with the subkeys `q` lead through: L and R before round n + 1 are the halves n
and n + 1, for a round's L is the R before it (R151). -/
def FollowRounds (h : Nat → Half) (t : SBox) (q : RoundKeys) : Prop :=
  ∀ r : Round, f t (h (r.val + 1)) q[r.val] = h r.val ^^^ h (r.val + 2)

/-- Rounds checked one step of `f` at a time, by what the expansion and the S-box array make of each half (R142). -/
theorem followRounds_of_steps {h : Nat → Half} {t : SBox} {q : RoundKeys} (e : Vector Subkey 16) (s : Vector Half 16)
    (he : ∀ (r : Round) (i : Fin 48), bit (h (r.val + 1)) (tab E (i.val + 1)) = bit e[r.val] (i.val + 1))
    (hs : ∀ r : Round, substitute t (e[r.val] ^^^ q[r.val]) = s[r.val])
    (hy : ∀ (r : Round) (i : Fin 32), bit s[r.val] (tab P (i.val + 1)) =
      bit (h r.val ^^^ h (r.val + 2)) (i.val + 1)) : FollowRounds h t q :=
  fun r => f_eq_of_steps e[r.val] s[r.val] (he r) (hs r) (hy r)

/-- The pairs of R154's loop are neighbouring halves. -/
theorem FollowRounds.pairAfter_eq {h : Nat → Half} {t : SBox} {q : RoundKeys} (hf : FollowRounds h t q) (n : Nat)
    (hn : n ≤ 16) : pairAfter t (h 0, h 1) q n hn = (h n, h (n + 1)) := by
  induction n with
  | zero => rfl
  | succ n ih =>
    have hround : f t (h (n + 1)) q[n] = h n ^^^ h (n + 2) := hf ⟨n, hn⟩
    rw [pairAfter, ih (Nat.le_of_succ_le hn), feistelRound, hround, ← BitVec.xor_assoc, BitVec.xor_self,
      BitVec.zero_xor]

/-- The network's value is `FP` of the last two halves, exchanged (R152, R154). -/
theorem FollowRounds.feistel_eq {h : Nat → Half} {t : SBox} {q : RoundKeys} (hf : FollowRounds h t q) {b : Block}
    (hb : ipSplit b = (h 0, h 1)) : feistel t b q = fperm (h 17 ++ h 16) := by
  rw [feistel, hb, hf.pairAfter_eq]
  rfl

/-- The known vector's halves under the standard's boxes (R154's table). -/
def knownHalvesStd (n : Nat) : Half :=
  [0xCC00CCFF, 0xF0AAF0AA, 0xEF4A6544, 0xCC017709, 0xA25C0BF4, 0x77220045, 0x8A4FA637, 0xE967CD69, 0x064ABA10,
    0xD5694B90, 0x247CC67A, 0xB7D5D7B2, 0xC5783C78, 0x75BD1858, 0x18C3155A, 0xC28C960D, 0x43423234, 0x0A4CD995].getD n 0

/-- The known vector's halves with S1 in all eight positions (R53). -/
def knownHalvesRep (n : Nat) : Half :=
  [0xCC00CCFF, 0xF0AAF0AA, 0xB95F4839, 0xFDD2309E, 0x6291EA47, 0x3D30F32C, 0x69BE23AC, 0x07936295, 0x72CFA757,
    0x68A684F5, 0x4B7F0B16, 0x146E848D, 0x1B5E88CF, 0x6F04E4B9, 0xB35DF3CB, 0xBFE86FF2, 0x232B99E9, 0xCC4FAF76].getD n 0

/-- The sixteen rounds of R154's table; the lists are the expanded halves and the S-box outputs, the columns of V25. -/
theorem followRounds_knownHalvesStd : FollowRounds knownHalvesStd SBOX_STD knownSubkeys :=
  followRounds_of_steps
    #v[0x7A15557A1555, 0x75EA5430AA09, 0xE58002BAE853, 0x5042F8057FA9, 0xBAE90400020A, 0xC5425FD0C1AF, 0xF52B0FE5AB53,
      0x00C2555F40A0, 0x6AAB52A57CA1, 0x1083F960C3F4, 0x5AFEABEAFDA5, 0x60ABF01F83F1, 0x3ABDFA8F02F0, 0x0F16068AAAF4,
      0xE054594AC05B, 0x206A041A41A8]
    #v[0x5C82B597, 0xF8D03AAE, 0x2710E16F, 0x21ED9F3A, 0x50C831EB, 0x41F34C3D, 0x107540AD, 0x6C187CAE, 0x110C5777,
      0xDA045275, 0x7305D101, 0x7B8B2635, 0x9AD18B4F, 0x64799AF1, 0xB2E88D3C, 0xA7832429]
    (by decide) (by decide) (by decide)

theorem followRounds_knownHalvesRep : FollowRounds knownHalvesRep (SBOX_REP S1) knownSubkeys :=
  followRounds_of_steps
    #v[0x7A15557A1555, 0xDF2AFEA501F3, 0x7FBEA41A14FD, 0xB054A3F5420E, 0x1FA9A17A6958, 0x353DFC107D58, 0x80FCA6B054AA,
      0xBA565FD0EAAE, 0xB5150D4097AA, 0x256BFE8568AC, 0x8A835D40945A, 0x8F6AFD45165E, 0xB5E8097095F2, 0xDA6AFBFA7E57,
      0x5FFF5035FFA5, 0x906957CF3F52]
    #v[0x5A7AF862, 0x4D32824C, 0xFE2BCD1E, 0xF7832206, 0x59C8E69F, 0xC4C43E9E, 0x544AAEFC, 0x6358D37C, 0xC0089BE9,
      0x8E1A1C0C, 0x66C82E80, 0x0F229B1E, 0x21E5110B, 0xFA8B4E81, 0x31034B47, 0xC360FA12]
    (by decide) (by decide) (by decide)

theorem encrypt_knownVector_STD :
    encrypt SBOX_STD 0x0123456789ABCDEF#64 0x133457799BBCDFF1#64 = 0x85E813540F0AB405#64 := by
  rw [encrypt, generateSubkeys_knownKey, FollowRounds.feistel_eq followRounds_knownHalvesStd ipSplit_knownBlock]
  exact permute_eq_of_bits FP (by decide)

theorem encrypt_knownVector_REP :
    encrypt (SBOX_REP S1) 0x0123456789ABCDEF#64 0x133457799BBCDFF1#64 = 0xBEB5557E09A7534E#64 := by
  rw [encrypt, generateSubkeys_knownKey, FollowRounds.feistel_eq followRounds_knownHalvesRep ipSplit_knownBlock]
  exact permute_eq_of_bits FP (by decide)

/-- What `encrypt` answers, `decrypt` takes back to the plaintext. -/
theorem decrypt_of_encrypt_eq {t : SBox} {b c : Block} {key : Key} (h : encrypt t b key = c) : decrypt t c key = b := by
  rw [← h, decrypt_encrypt]

/-- Settles O38: `encrypt` by its halves under each variant, `decrypt` as its inverse. -/
theorem knownVectorPerSboxVariant : Obligations.KnownVectorPerSboxVariant :=
  ⟨encrypt_knownVector_STD, decrypt_of_encrypt_eq encrypt_knownVector_STD,
    encrypt_knownVector_REP, decrypt_of_encrypt_eq encrypt_knownVector_REP⟩

/-! ### What a command delivers (R173, R177, R179) -/

/-- Settles O41: being `ps.length + 1` edges into the command is the row of the life table. -/
theorem commandLifeFollowsEdgeTable : Obligations.CommandLifeFollowsEdgeTable :=
  fun _ _ _ hs hp hps hn => hs.exists_runPins hp hps hn

/-- A request and 33 further edges without `rst` lead to the end of its command. -/
theorem State.ready.exists_runPins_all {s : State} (h : s.ready) {p : Pins} (hp : p.requests) {ps : List Pins}
    (hps : noReset ps) (hn : ps.length = 33) :
    ∃ t, runPins (p :: ps) s = .next t ∧ t.onCommand s.sbox p.dec p.block_in p.key_in 34 := by
  obtain ⟨t, ht, hst⟩ := h.exists_runPins hp hps hn.le
  rw [hn] at hst
  exact ⟨t, ht, hst⟩

/-- Settles O42: after the 34th edge `done` is 1 and `block_out` is the function's value. -/
theorem commandDeliversFunctionValue : Obligations.CommandDeliversFunctionValue := by
  intro s p ps hs hp hps hn
  obtain ⟨t, ht, hst⟩ := hs.exists_runPins_all hp hps hn
  exact ⟨t, ht, hst.done_iff.mpr rfl, hst.blockOut_eq⟩

/-- Settles O52: both runs deliver the function's value of the same operands under the same table. -/
theorem resultDependsOnlyOnOperands : Obligations.ResultDependsOnlyOnOperands := by
  intro s s' p p' ps ps' hs hs' hx hp hp' hdec hblock hkey hps hps' hn hn'
  obtain ⟨t, ht, hst⟩ := hs.exists_runPins_all hp hps hn
  obtain ⟨t', ht', hst'⟩ := hs'.exists_runPins_all hp' hps' hn'
  refine ⟨t, t', ht, ht', hst.done_iff.mpr rfl, hst'.done_iff.mpr rfl, ?_⟩
  rw [hst.blockOut_eq, hst'.blockOut_eq, hx, hdec, hblock, hkey]

/-! ### Ports that are not examined while busy (R174, R178) -/

/-- While busy and without `rst`, the row that a step selects depends on `PHASE` and `I` alone. -/
theorem decode_setPins_of_busy {s : State} {p : Pins} (hp : s.PHASE ≠ .idle) (hr : s.pins.rst = false)
    (hr' : p.rst = false) : decode (stepWord (s.setPins p)) = decode (stepWord s) := by
  rw [decode_stepWord, decode_stepWord, State.setPins_pins, State.setPins_PHASE, State.setPins_I, hr, hr']
  cases h : s.PHASE with
  | idle => exact absurd h hp
  | ks => rfl
  | rnd => rfl
  | fin => rfl

/-- Settles O51: the same row is selected, and its effect reads nothing of the ports. -/
theorem inputsIgnoredWhileBusy : Obligations.InputsIgnoredWhileBusy := by
  intro s t p hp hr hr' ht
  obtain ⟨hl, u, hu, rfl⟩ := step_next_cases ht
  have hl' : (s.setPins p).live = true ∨ (s.setPins p).pins.rst = true := .inl (hl.resolve_right (by simp [hr]))
  have hu' : exec (decode (stepWord (s.setPins p))) (s.setPins p) = .next (u.withHost p s.drive s.edge) := by
    rw [decode_setPins_of_busy hp hr hr']
    exact exec_withHost hu p s.drive s.edge
  refine ⟨_, step_of_exec hl' hu', ?_⟩
  simp only [State.nextPins_toRegisters, State.nextPins_sbox, State.nextPins_live]
  exact ⟨rfl, rfl, rfl⟩

/-! ### The outputs during and after a command (R39, R175) -/

/-- Only `rst` = 1 selects the row `RST` (R176). -/
theorem rst_of_decode_eq_rst {s : State} (h : decode (stepWord s) = .rst) : s.pins.rst = true := by
  by_contra hr
  rw [decode_stepWord, if_neg hr] at h
  cases hp : s.PHASE <;> simp only [hp] at h
  case idle => split_ifs at h
  case ks => cases h
  case rnd => cases h
  case fin => cases h

/-- Only the FIN phase selects the row `FIN` (R91). -/
theorem phase_of_decode_eq_fin {s : State} (h : decode (stepWord s) = .fin) : s.PHASE = .fin := by
  have hr : ¬s.pins.rst = true := fun hr => by simp [decode_of_rst hr] at h
  rw [decode_stepWord, if_neg hr] at h
  cases hp : s.PHASE <;> simp only [hp] at h
  case idle => split_ifs at h
  case ks => cases h
  case rnd => cases h
  case fin => rfl

/-- `block_out` changes at a reset and at FIN only (R37). -/
theorem blockOut_step {s t : State} (h : step s = .next t) (hr : s.pins.rst = false) (hp : s.PHASE ≠ .fin) :
    blockOut t = blockOut s := by
  obtain ⟨-, u, hu, rfl⟩ := step_next_cases h
  refine (State.nextPins_OUT u).trans ?_
  rcases exec_next_cases hu with ⟨hd, _⟩ | ⟨_, rfl⟩ | ⟨b, k, _, rfl⟩ | ⟨b, k, _, rfl⟩ | ⟨n, r, _, _, rfl⟩ |
    ⟨n, r, _, _, rfl⟩ | ⟨hd, _⟩
  · simp [rst_of_decode_eq_rst hd] at hr
  · rfl
  · rfl
  · rfl
  · exact s.keyStep_OUT r
  · exact s.feistelStep_OUT r
  · exact absurd (phase_of_decode_eq_fin hd) hp

section
variable {s t : State} {x : SBox} {dec : Bool} {block : Block} {key : Key} {n : Nat}

/-- The phase after `n` edges of a command: sixteen of KS, sixteen of RND, then FIN and IDLE (R177). -/
theorem State.onCommand.phase_eq (hs : s.onCommand x dec block key n) :
    s.PHASE = if n ≤ 16 then .ks else if n ≤ 32 then .rnd else if n = 33 then .fin else .idle := by
  obtain ⟨-, -, ⟨m, hm, rfl, hp, -⟩ | ⟨m, hm, rfl, hp, -⟩ | ⟨rfl, hp, -⟩ | ⟨rfl, hp, -⟩⟩ := hs
  · rw [hp, if_pos (by omega)]
  · rw [hp, if_neg (by omega), if_pos (by omega)]
  · rw [hp]; rfl
  · rw [hp]; rfl

/-- The core is busy until the 34th edge. -/
theorem State.onCommand.busy_iff (hs : s.onCommand x dec block key n) : busy s = true ↔ n ≠ 34 := by
  have hn := hs.bounds
  rw [busy_eq_true_iff, hs.phase_eq]
  split_ifs <;> (simp; omega)

theorem State.onCommand.phase_ne_fin (hs : s.onCommand x dec block key n) (hn : n < 33) : s.PHASE ≠ .fin := by
  rw [hs.phase_eq, if_neg (show ¬n = 33 by omega)]
  split_ifs <;> decide

/-- Edges before the 34th leave `block_out` as it was. -/
theorem State.onCommand.blockOut_runPins (hs : s.onCommand x dec block key n) {ps : List Pins} (hps : noReset ps)
    (hn : n + ps.length ≤ 33) (h : runPins ps s = .next t) : blockOut t = blockOut s := by
  induction ps generalizing s n with
  | nil => injection h with h; rw [h]
  | cons p ps ih =>
    obtain ⟨hp, hps⟩ := List.forall_mem_cons.mp hps
    rw [List.length_cons] at hn
    replace hs : (s.setPins p).onCommand x dec block key n := (State.onCommand_setPins p).mpr hs
    obtain ⟨u, hu, hsu⟩ := hs.exists_step (by omega) hp
    simp only [runPins, hu] at h
    exact (ih hsu hps (by omega) h).trans (blockOut_step (s := s.setPins p) hu hp (hs.phase_ne_fin (by omega)))

/-- A request and the edges before the 34th leave `block_out` at the previous result. -/
theorem State.ready.blockOut_runPins (hs : s.ready) {p : Pins} (hp : p.requests) {ps : List Pins} (hps : noReset ps)
    (hn : ps.length ≤ 32) (h : runPins (p :: ps) s = .next t) : blockOut t = blockOut s := by
  obtain ⟨u, hu, hsu⟩ := State.ready.exists_step (s := s.setPins p) hs hp
  simp only [runPins, hu] at h
  have hidle : (s.setPins p).PHASE ≠ .fin := by simp [hs.2]
  exact (hsu.blockOut_runPins hps (by omega) h).trans (blockOut_step (s := s.setPins p) hu hp.1 hidle)

/-- NOP edges leave the registers and the table of a state in IDLE alone (R214). -/
theorem State.ready.exists_runPins_nops (hs : s.ready) {ps : List Pins}
    (hps : ∀ p ∈ ps, p.rst = false ∧ p.start = false) :
    ∃ t, runPins ps s = .next t ∧ t.toRegisters = s.toRegisters ∧ t.sbox = s.sbox ∧ t.ready := by
  induction ps generalizing s with
  | nil => exact ⟨s, rfl, rfl, rfl, hs⟩
  | cons p ps ih =>
    obtain ⟨⟨hr, hstart⟩, hps⟩ := List.forall_mem_cons.mp hps
    have hstep := step_of_idle_nop (s := s.setPins p) hs.1 hr hs.2 hstart
    have hready : (s.setPins p).nextPins.ready :=
      ⟨(State.nextPins_live _).trans hs.1, (State.nextPins_PHASE _).trans hs.2⟩
    obtain ⟨t, ht, hregs, hx, ht'⟩ := ih hready hps
    refine ⟨t, by simp only [runPins, hstep, ht], ?_, ?_, ht'⟩
    · rw [hregs, State.nextPins_toRegisters, State.setPins_toRegisters]
    · rw [hx, State.nextPins_sbox, State.setPins_sbox]

end

/-- Settles O57: before the 34th edge the command is in progress and has not written `block_out`; after it NOP edges
keep what it delivered. -/
theorem outputsDuringAndAfterCommand : Obligations.OutputsDuringAndAfterCommand := by
  intro s p ps nops hs hp hps hnops
  refine ⟨fun hn => ?_, fun hn => ?_⟩
  · obtain ⟨t, ht, hst⟩ := hs.exists_runPins hp hps (Nat.le_succ_of_le hn)
    have hlt : ps.length + 1 ≠ 34 := by omega
    exact ⟨t, ht, hst.busy_iff.mpr hlt, Bool.eq_false_iff.mpr (mt hst.done_iff.mp hlt),
      hs.blockOut_runPins hp hps hn ht⟩
  · obtain ⟨t, ht, hst⟩ := hs.exists_runPins_all hp hps hn
    obtain ⟨u, hu, hregs, -, -⟩ := hst.ready.exists_runPins_nops hnops
    obtain ⟨-, houts, -, -⟩ := outputsAreFunctionsOfRegisters
    obtain ⟨hbusy, hdone, hout⟩ := houts u t hregs
    refine ⟨u, (runPins_append _ _ ht).trans hu, ?_, hdone.trans (hst.done_iff.mpr rfl), hout.trans hst.blockOut_eq⟩
    rw [hbusy, Bool.eq_false_iff]
    exact fun hb => hst.busy_iff.mp hb rfl

end Sys2Proof.Machine
end

section
/-! PROOFS. The exceptions family (R185, R198, R199): every row completes and nothing faults, and several cores side by side
do not observe each other. -/

namespace Sys2Proof.Machine

/-! ### Every row completes (R185) -/

/-- An `I` in 1..16 is the number of a round (R97). -/
theorem exists_round_of_isRoundIndex {i : BitVec 5} (h : isRoundIndex i = true) :
    ∃ r : Round, i.toNat = roundNumber r := by
  cases hr : roundOf i with
  | none => exact absurd ((roundOf_eq_none_iff i).mp hr) (by simp [h])
  | some r => exact ⟨r, (roundOf_eq_some_iff i r).mp hr⟩

/-- An instruction that R97 gives a meaning has a next state in every state. -/
theorem exists_exec_of_wellFormed {i : Instr} (h : i.wellFormed = true) (s : State) : ∃ t, exec i s = .next t := by
  cases i with
  | rst => exact ⟨_, rfl⟩
  | nop => exact ⟨_, rfl⟩
  | enc b k => exact ⟨_, rfl⟩
  | dec b k => exact ⟨_, rfl⟩
  | ks n =>
    obtain ⟨r, hr⟩ := exists_round_of_isRoundIndex h
    exact ⟨_, exec_ks_of_round s hr⟩
  | rnd n =>
    obtain ⟨r, hr⟩ := exists_round_of_isRoundIndex h
    exact ⟨_, exec_rnd_of_round s hr⟩
  | fin => exact ⟨_, rfl⟩

/-- The decoded instruction keeps the sequencing state legal: `KS` and `RND` are decoded in their own phase only. -/
theorem exec_decode_keeps_seqLegal {s t : State} (hs : s.seqLegal = true)
    (h : exec (decode (stepWord s)) s = .next t) : t.seqLegal = true := by
  rcases exec_next_cases h with ⟨_, rfl⟩ | ⟨_, rfl⟩ | ⟨b, k, _, rfl⟩ | ⟨b, k, _, rfl⟩ | ⟨n, r, hd, _, rfl⟩ |
    ⟨n, r, hd, _, rfl⟩ | ⟨_, rfl⟩
  · rfl
  · exact hs
  · exact Registers.seqLegal_of_round (.inl rfl) 0 rfl
  · exact Registers.seqLegal_of_round (.inl rfl) 0 rfl
  · exact State.keyStep_seqLegal (of_decode_eq_ks hd).1 r
  · exact State.feistelStep_seqLegal (of_decode_eq_rnd hd).1 r
  · rfl

/-- A specified state stays specified, and every step keeps the sequencing state legal (R36, R56). -/
theorem State.Safe.of_step {s t : State} (hs : s.Safe) (h : step s = .next t) : t.Safe := by
  obtain ⟨hl, hq⟩ := hs
  obtain ⟨-, u, hu, rfl⟩ := step_next_cases h
  obtain ⟨-, -, -, -, hlive⟩ := exec_next_host hu
  rw [State.Safe, State.nextPins_live, State.nextPins_toRegisters]
  exact ⟨hlive.elim (·.trans hl) id, exec_decode_keeps_seqLegal hq hu⟩

/-- From a safe state an edge completes: as a reset, or by the row of the legal sequencing state. -/
theorem State.Safe.exists_step {s : State} (hs : s.Safe) : ∃ t, step s = .next t := by
  cases hr : s.pins.rst with
  | true => exact ⟨_, step_of_rst hr⟩
  | false => exact exists_step_of_seqLegal hs.1 hr hs.2

/-- Settles O50: well-formed instructions complete; a safe state with any levels on its ports is safe, so its step completes
and stays safe; and there is no fault to answer (R185). -/
theorem safeStatesAlwaysStep : Obligations.SafeStatesAlwaysStep := by
  refine ⟨fun i s h => exists_exec_of_wellFormed h s, fun s p hs => ?_, fun s r => nomatch r⟩
  replace hs : (s.setPins p).Safe := hs
  obtain ⟨t, ht⟩ := hs.exists_step
  exact ⟨t, ht, hs.of_step ht⟩

/-! ### Several cores (R198, R199) -/

/-- What one core of several does at a moment: its own step at an edge of its clock, and nothing without one. -/
theorem System.getElem_edge {n : Nat} (sys : System n) (ck : Vector Bool n) (k : Fin n) :
    (sys.edge ck)[k.val] = if ck[k.val] then step sys[k.val] else .next sys[k.val] :=
  Vector.getElem_ofFn _

/-- Settles O59: both clauses from `getElem_edge`, which reads the core's own state and clock only. -/
theorem instancesAreIndependent : Obligations.InstancesAreIndependent := by
  refine ⟨fun n sys sys' ck ck' k hs hc => ?_, fun n sys ck k => ⟨fun hc => ?_, fun hc => ?_⟩⟩
  · rw [System.getElem_edge, System.getElem_edge, hs, hc]
  · rw [System.getElem_edge, hc, if_pos rfl]
  · rw [System.getElem_edge, hc, if_neg Bool.false_ne_true]

end Sys2Proof.Machine
end

section
/-! PROOFS. The exceptions family, configurations (R186 to R188): the defects by name, typed tables against the lists they
write out, and loading. -/

namespace Sys2Proof.Machine

/-! ### The defects of each table, by name (R186) -/

theorem mem_permDefects {w n : Nat} {l : List Nat} {d : CfgDefect} :
    d ∈ permDefects w n l ↔ (d = .permRange ∧ ∃ p ∈ l, p < 1 ∨ w < p) ∨ (d = .permLength ∧ l.length ≠ n) := by
  simp only [permDefects, List.mem_append, List.mem_ite_nil_left, List.mem_singleton, List.all_eq_true,
    decide_eq_true_eq, not_forall, not_and_or, not_le, exists_prop, ne_eq, and_comm (b := d = _)]

/-- The shape check is R54's shape. -/
theorem sboxShapeOk_iff {l : List (List (List Nat))} :
    sboxShapeOk l = true ↔ l.length = 8 ∧ ∀ b ∈ l, b.length = 4 ∧ ∀ r ∈ b, r.length = 16 := by
  simp only [sboxShapeOk, Bool.and_eq_true, decide_eq_true_eq, List.all_eq_true]

/-- The value check is R54's range. -/
theorem sboxValueOk_iff {l : List (List (List Nat))} :
    sboxValueOk l = true ↔ ∀ b ∈ l, ∀ r ∈ b, ∀ v ∈ r, v ≤ 15 := by
  simp only [sboxValueOk, decide_eq_true_eq, List.all_eq_true]

theorem mem_sboxDefects {l : List (List (List Nat))} {d : CfgDefect} :
    d ∈ sboxDefects l ↔
      (d = .sboxShape ∧ ¬(l.length = 8 ∧ ∀ b ∈ l, b.length = 4 ∧ ∀ r ∈ b, r.length = 16)) ∨
        (d = .sboxValue ∧ ∃ b ∈ l, ∃ r ∈ b, ∃ v ∈ r, 15 < v) := by
  have hvalue : ¬sboxValueOk l = true ↔ ∃ b ∈ l, ∃ r ∈ b, ∃ v ∈ r, 15 < v := by
    simp only [sboxValueOk_iff, not_forall, not_le, exists_prop]
  simp only [sboxDefects, List.mem_append, List.mem_ite_nil_left, List.mem_singleton, hvalue, sboxShapeOk_iff, and_comm]

theorem mem_shiftDefects {l : List Nat} {d : CfgDefect} :
    d ∈ shiftDefects l ↔ d = .shiftRange ∧ (l.length ≠ 16 ∨ ∃ n ∈ l, 27 < n) := by
  simp only [shiftDefects, List.mem_ite_nil_left, List.mem_singleton, List.all_eq_true, decide_eq_true_eq, not_and_or,
    not_forall, not_le, exists_prop, ne_eq, and_comm]

/-! ### A list without a defect is a typed table written out (R44, R51, R54, R187) -/

/-- A list of the right length, whose entries are what their readings write out, is what its reading writes out. -/
theorem map_toList_ofFn_getD {α β : Type} {n : Nat} {l : List α} (d : α) {write : β → α} {read : α → β}
    (hl : l.length = n) (h : ∀ x ∈ l, write (read x) = x) :
    (Vector.ofFn fun i : Fin n => read (l.getD i.val d)).toList.map write = l := by
  refine List.ext_getElem (by simp [hl]) fun i _ hi => ?_
  simp [List.getElem?_eq_getElem hi, h _ (List.getElem_mem hi)]

/-- A table is determined by its entries written out when each entry is. -/
theorem map_toList_injective {α β : Type} {n : Nat} {write : β → α} (h : Function.Injective write) :
    Function.Injective fun v : Vector β n => v.toList.map write :=
  (List.map_injective_iff.mpr h).comp fun _ _ => Vector.toList_inj.mp

/-- If a reading answers only what writes out as its input, and reads everything written out, it inverts the writing. -/
theorem eq_some_iff_of_injective {α β : Type} {read : α → Option β} {write : β → α}
    (hinj : Function.Injective write) (hread : ∀ a b, read a = some b → write b = a)
    (hwrite : ∀ b, ∃ b', read (write b) = some b') (a : α) (b : β) : read a = some b ↔ write b = a := by
  refine ⟨hread a b, ?_⟩
  rintro rfl
  obtain ⟨b', hb'⟩ := hwrite b
  rw [hb', hinj (hread _ _ hb')]

/-! #### Permutation tables -/

/-- A permutation table is its list, its contract being part of its type. -/
theorem permTableOf_eq_some_iff {w n : Nat} {l : List Nat} {t : PermTable w n} :
    permTableOf w n l = some t ↔ t.entries = l := by
  obtain ⟨m, hlen, hrange⟩ := t
  unfold permTableOf
  split
  case isTrue h => simp only [Option.some.injEq, PermTable.mk.injEq, eq_comm]
  case isFalse h =>
    simp only [reduceCtorEq, false_iff]
    rintro rfl
    exact h ⟨hlen, hrange⟩

theorem permDefects_eq_nil_iff {w n : Nat} {l : List Nat} :
    permDefects w n l = [] ↔ ∃ t : PermTable w n, t.entries = l := by
  simp only [permDefects, List.append_eq_nil_iff, ite_eq_left_iff, reduceCtorEq, imp_false, not_not, List.all_eq_true,
    decide_eq_true_eq]
  constructor
  · rintro ⟨hrange, hlen⟩
    exact ⟨⟨l, hlen, hrange⟩, rfl⟩
  · rintro ⟨t, rfl⟩
    exact ⟨t.in_range, t.length_eq⟩

/-! #### The rotation schedule -/

/-- The rotation schedule written out, as in `Tables.raw`. -/
def rawShift (t : ShiftTable) : List Nat := t.toList.map Fin.val

theorem rawShift_contract (t : ShiftTable) : (rawShift t).length = 16 ∧ ∀ n ∈ rawShift t, n ≤ 27 := by
  refine ⟨by simp [rawShift], fun n hn => ?_⟩
  obtain ⟨a, -, rfl⟩ := List.mem_map.mp hn
  omega

/-- The schedule read from a list writes out as that list. -/
theorem rawShift_of_shiftTableOf {l : List Nat} {t : ShiftTable} (h : shiftTableOf l = some t) : rawShift t = l := by
  unfold shiftTableOf at h
  split at h
  case isTrue hl =>
    injection h with h
    subst h
    exact List.ext_getElem (by simp [rawShift, hl.1]) fun n _ _ => by simp [rawShift]
  case isFalse => cases h

theorem exists_shiftTableOf {l : List Nat} (hl : l.length = 16 ∧ ∀ n ∈ l, n ≤ 27) : ∃ t, shiftTableOf l = some t :=
  ⟨_, dif_pos hl⟩

theorem shiftTableOf_eq_some_iff {l : List Nat} {t : ShiftTable} : shiftTableOf l = some t ↔ rawShift t = l :=
  eq_some_iff_of_injective (map_toList_injective Fin.val_injective) (fun _ _ => rawShift_of_shiftTableOf)
    (fun t => exists_shiftTableOf (rawShift_contract t)) l t

theorem shiftDefects_eq_nil_iff {l : List Nat} : shiftDefects l = [] ↔ ∃ t, rawShift t = l := by
  simp only [shiftDefects, ite_eq_left_iff, reduceCtorEq, imp_false, not_not, List.all_eq_true, decide_eq_true_eq,
    ← shiftTableOf_eq_some_iff]
  refine ⟨exists_shiftTableOf, ?_⟩
  rintro ⟨t, ht⟩
  exact rawShift_of_shiftTableOf ht ▸ rawShift_contract t

/-! #### The S-box table -/

/-- A row of an S-box written out, as in `Tables.raw`. -/
def rawRow (r : Vector Nibble 16) : List Nat := r.toList.map BitVec.toNat
/-- An S-box written out, row by row. -/
def rawBox (b : SBoxTable) : List (List Nat) := b.toList.map rawRow
/-- The S-box table written out, box by box. -/
def rawSbox (t : SBox) : List (List (List Nat)) := t.box.toList.map rawBox

/-- The row that `sboxOf` reads from a list. -/
def rowOf (r : List Nat) : Vector Nibble 16 := Vector.ofFn fun c => BitVec.ofNat 4 (r.getD c.val 0)
/-- The box that `sboxOf` reads from its rows. -/
def boxOf (b : List (List Nat)) : SBoxTable := Vector.ofFn fun r => rowOf (b.getD r.val [])

theorem sboxOf_eq (l : List (List (List Nat))) :
    sboxOf l =
      if sboxShapeOk l && sboxValueOk l then some ⟨Vector.ofFn fun j => boxOf (l.getD j.val [])⟩ else none := rfl

theorem rawSbox_injective : Function.Injective rawSbox := by
  have hbox : Function.Injective rawBox := map_toList_injective (map_toList_injective fun _ _ => BitVec.eq_of_toNat_eq)
  rintro ⟨b⟩ ⟨b'⟩ h
  exact congrArg SBox.mk (map_toList_injective hbox h)

theorem rawSbox_ok (t : SBox) : sboxShapeOk (rawSbox t) = true ∧ sboxValueOk (rawSbox t) = true := by
  rw [sboxShapeOk_iff, sboxValueOk_iff]
  simp only [rawSbox, rawBox, rawRow, List.forall_mem_map, List.length_map, Vector.length_toList]
  exact ⟨⟨trivial, fun _ _ => ⟨trivial, fun _ _ => trivial⟩⟩, fun _ _ _ _ v _ => Nat.le_of_lt_succ v.isLt⟩

/-- The S-box table read from lists writes out as those lists: in each dimension by `map_toList_ofFn_getD`. -/
theorem rawSbox_of_sboxOf {l : List (List (List Nat))} {t : SBox} (h : sboxOf l = some t) : rawSbox t = l := by
  rw [sboxOf_eq] at h
  split at h
  case isTrue hok =>
    injection h with h
    subst h
    rw [Bool.and_eq_true, sboxShapeOk_iff, sboxValueOk_iff] at hok
    obtain ⟨⟨hboxes, hshape⟩, hvalue⟩ := hok
    refine map_toList_ofFn_getD [] hboxes fun b hb => ?_
    obtain ⟨hrows, hcols⟩ := hshape b hb
    refine map_toList_ofFn_getD [] hrows fun r hr => ?_
    refine map_toList_ofFn_getD 0 (hcols r hr) fun v hv => ?_
    exact Nat.mod_eq_of_lt (Nat.lt_succ_of_le (hvalue b hb r hr v hv))
  case isFalse => cases h

theorem exists_sboxOf {l : List (List (List Nat))} (h : sboxShapeOk l = true ∧ sboxValueOk l = true) :
    ∃ t, sboxOf l = some t :=
  ⟨_, if_pos (Bool.and_eq_true_iff.mpr h)⟩

theorem sboxOf_eq_some_iff {l : List (List (List Nat))} {t : SBox} : sboxOf l = some t ↔ rawSbox t = l :=
  eq_some_iff_of_injective rawSbox_injective (fun _ _ => rawSbox_of_sboxOf) (fun t => exists_sboxOf (rawSbox_ok t)) l t

theorem sboxDefects_eq_nil_iff {l : List (List (List Nat))} : sboxDefects l = [] ↔ ∃ t, rawSbox t = l := by
  simp only [sboxDefects, List.append_eq_nil_iff, ite_eq_left_iff, reduceCtorEq, imp_false, not_not,
    ← sboxOf_eq_some_iff]
  refine ⟨exists_sboxOf, ?_⟩
  rintro ⟨t, ht⟩
  exact rawSbox_of_sboxOf ht ▸ rawSbox_ok t

/-! ### Configurations (R187, R188) -/

/-- Tables write out a configuration when each table writes out its list. -/
theorem raw_eq_iff {t : Tables} {c : RawConfig} :
    t.raw = c ↔ t.ip.entries = c.ip ∧ t.fp.entries = c.fp ∧ t.e.entries = c.e ∧ t.p.entries = c.p ∧
      t.pc1.entries = c.pc1 ∧ t.pc2.entries = c.pc2 ∧ rawShift t.shift = c.shift ∧ rawSbox t.sbox = c.sbox := by
  obtain ⟨⟩ := c
  exact Iff.of_eq (RawConfig.mk.injEq ..)

/-- What loads is the configuration that the loaded tables write out, and no other. -/
theorem load_eq_ok_iff {c : RawConfig} {t : Tables} : c.load = .ok t ↔ t.raw = c := by
  constructor
  · intro h
    unfold RawConfig.load at h
    split at h
    · rename_i hip hfp he hp hpc1 hpc2 hshift hsbox
      injection h with h
      subst h
      exact raw_eq_iff.mpr ⟨permTableOf_eq_some_iff.mp hip, permTableOf_eq_some_iff.mp hfp,
        permTableOf_eq_some_iff.mp he, permTableOf_eq_some_iff.mp hp, permTableOf_eq_some_iff.mp hpc1,
        permTableOf_eq_some_iff.mp hpc2, shiftTableOf_eq_some_iff.mp hshift, sboxOf_eq_some_iff.mp hsbox⟩
    · cases h
  · rintro rfl
    have hperm {w n : Nat} (t : PermTable w n) : permTableOf w n t.entries = some t := permTableOf_eq_some_iff.mpr rfl
    have hshift : shiftTableOf t.raw.shift = some t.shift := shiftTableOf_eq_some_iff.mpr rfl
    have hsbox : sboxOf t.raw.sbox = some t.sbox := sboxOf_eq_some_iff.mpr rfl
    unfold RawConfig.load
    rw [hshift, hsbox]
    simp only [Tables.raw, hperm]

/-- A configuration without a defect is some typed tables written out. -/
theorem defects_eq_nil_iff {c : RawConfig} : c.defects = [] ↔ ∃ t : Tables, t.raw = c := by
  simp only [RawConfig.defects, List.append_eq_nil_iff, permDefects_eq_nil_iff, sboxDefects_eq_nil_iff,
    shiftDefects_eq_nil_iff]
  constructor
  · obtain ⟨⟩ := c
    rintro ⟨⟨⟨⟨⟨⟨⟨⟨ip, rfl⟩, fp, rfl⟩, e, rfl⟩, p, rfl⟩, pc1, rfl⟩, pc2, rfl⟩, sbox, rfl⟩, shift, rfl⟩
    exact ⟨⟨ip, fp, e, p, pc1, pc2, shift, sbox⟩, rfl⟩
  · rintro ⟨t, rfl⟩
    exact ⟨⟨⟨⟨⟨⟨⟨⟨t.ip, rfl⟩, t.fp, rfl⟩, t.e, rfl⟩, t.p, rfl⟩, t.pc1, rfl⟩, t.pc2, rfl⟩, t.sbox, rfl⟩, t.shift, rfl⟩

theorem exists_load_iff {c : RawConfig} : (∃ t, c.load = .ok t) ↔ c.defects = [] := by
  simp only [load_eq_ok_iff, defects_eq_nil_iff]

/-- A configuration that does not load is answered with all its defects (log 13). -/
theorem eq_defects_of_load_eq_error {c : RawConfig} {ds : List CfgDefect} (h : c.load = .error ds) : ds = c.defects := by
  unfold RawConfig.load at h
  split at h
  · cases h
  · injection h with h
    exact h.symm

/-- Settles O60: loading by `load_eq_ok_iff` and `exists_load_iff`, the names by what each table's defects are; an answer
with an empty list would be of a configuration that loads. -/
theorem configurationLoadsExactlyWithoutDefects : Obligations.ConfigurationLoadsExactlyWithoutDefects := by
  refine ⟨fun c => exists_load_iff, fun c t => load_eq_ok_iff.mp, fun c ds h => ?_, fun t => load_eq_ok_iff.mpr rfl,
    fun c => ?_⟩
  · obtain rfl := eq_defects_of_load_eq_error h
    refine ⟨rfl, fun hnil => ?_⟩
    obtain ⟨t, ht⟩ := exists_load_iff.mpr hnil
    cases h.symm.trans ht
  · simp [RawConfig.defects, mem_permDefects, mem_sboxDefects, mem_shiftDefects]

end Sys2Proof.Machine
end

section
/-! PROOFS. The reset and hazards family (R207, R210, R214, R216, R219): no run touches the table, when `done` rises, a
reset in the middle of a command, back-to-back commands, and a result kept through NOPs. -/

namespace Sys2Proof.Machine

/-! ### The configuration is never written (R210) -/

theorem step_sbox {s t : State} (h : step s = .next t) : t.sbox = s.sbox := by
  obtain ⟨-, u, hu, rfl⟩ := step_next_cases h
  obtain ⟨hsbox, -⟩ := exec_next_host hu
  rw [State.nextPins_sbox, hsbox]

/-- A completed run of `n + 1` edges is a completed step and a completed run of `n` edges. -/
theorem exists_step_of_run_succ {n : Nat} {s t : State} (h : run (n + 1) s = .next t) :
    ∃ u, step s = .next u ∧ run n u = .next t := by
  rw [run] at h
  cases hs : step s with
  | next u => rw [hs] at h; exact ⟨u, rfl, h⟩
  | fault r => exact nomatch r
  | refused r => rw [hs] at h; cases h

/-- Settles O17, by induction on the number of edges: no instruction writes the table, RST included. -/
theorem configurationNeverChanges : Obligations.ConfigurationNeverChanges := by
  intro n
  induction n with
  | zero =>
    intro s t h
    injection h with h
    rw [h]
  | succ n ih =>
    intro s t h
    obtain ⟨u, hu, hrun⟩ := exists_step_of_run_succ h
    exact (ih u t hrun).trans (step_sbox hu)

/-! ### From a ready state: one accepted request, and the edges of its command (R177, R219) -/

section
variable {s : State}

/-- The accepting edge begins the command and leaves `block_out` at the previous result (R37, R169). -/
theorem State.ready.exists_accept (hs : s.ready) {q : Pins} (hq : q.requests) :
    ∃ u, step (s.setPins q) = .next u ∧ u.onCommand s.sbox q.dec q.block_in q.key_in 1 ∧ blockOut u = blockOut s := by
  obtain ⟨u, hu, hsu⟩ := State.ready.exists_step (s := s.setPins q) hs hq
  have hphase : (s.setPins q).PHASE ≠ .fin := by simp [hs.2]
  exact ⟨u, hu, hsu, blockOut_step (s := s.setPins q) hu hq.1 hphase⟩

/-- The first `n` of the 34 edges that begin with a request are `n` edges of its command, and `block_out` shows the
previous result before the last of them. -/
theorem State.ready.exists_runPins_take (hs : s.ready) {ps : List Pins} {p : Pins} (hp : ps[0]? = some p)
    (hq : p.requests) (hps : noReset ps) {n : Nat} (hn : 1 ≤ n) (hlen : n ≤ ps.length) (hlat : n ≤ 34) :
    ∃ t, runPins (ps.take n) s = .next t ∧ t.onCommand s.sbox p.dec p.block_in p.key_in n ∧
      (n ≤ 33 → blockOut t = blockOut s) := by
  obtain ⟨m, rfl⟩ := Nat.exists_eq_add_of_le' hn
  cases ps with
  | nil => cases hp
  | cons p' ps =>
    obtain rfl : p' = p := Option.some.inj hp
    have hps' : noReset (ps.take m) := fun r hr => hps r (List.mem_cons_of_mem _ (List.mem_of_mem_take hr))
    have hm : (ps.take m).length = m := List.length_take_of_le (Nat.le_of_succ_le_succ hlen)
    rw [List.take_succ_cons]
    obtain ⟨t, ht, hst⟩ := hs.exists_runPins hq hps' (by omega)
    rw [hm] at hst
    exact ⟨t, ht, hst, fun h => hs.blockOut_runPins hq hps' (by omega) ht⟩

end

/-- Settles O43: after `n` edges of the command `done` is 1 exactly when `n` = 34, and then the result is there. -/
theorem doneFirstRisesAtLatency : Obligations.DoneFirstRisesAtLatency := by
  refine ⟨rfl, fun s p ps hs hp hps hlen n hn hlat => ?_⟩
  obtain ⟨t, ht, hst, -⟩ := hs.exists_runPins_take (ps := p :: ps) rfl hp (List.forall_mem_cons.mpr ⟨hp.1, hps⟩) hn
    (by rw [List.length_cons, hlen]; exact hlat) hlat
  refine ⟨t, ht, hst.done_iff, ?_⟩
  rintro rfl
  exact hst.blockOut_eq

/-! ### A reset in the middle of a command (R207) -/

/-- An edge with `rst` = 1 leaves the reset values and a state that accepts requests (R55, R165). -/
theorem exists_step_reset (s : State) {r : Pins} (hr : r.rst = true) :
    ∃ t, step (s.setPins r) = .next t ∧ t.toRegisters = Registers.zero ∧ t.ready :=
  ⟨_, step_of_rst (s := s.setPins r) hr, State.nextPins_toRegisters _, State.nextPins_live _, State.nextPins_PHASE _⟩

/-- Settles O53: the edges before the reset complete, the reset clears what they did, and the state accepts again. -/
theorem resetAbandonsCommand : Obligations.ResetAbandonsCommand := by
  intro s p r ps hs hp hps hlen hr
  obtain ⟨t, ht, -⟩ := hs.exists_runPins hp hps (Nat.le_succ_of_le hlen)
  obtain ⟨u, hu, hzero, hready⟩ := exists_step_reset t hr
  refine ⟨u, ?_, hzero, congrArg Registers.DONE hzero, congrArg Registers.OUT hzero, fun q hq => ?_⟩
  · rw [runPins_append _ _ ht]
    simp only [runPins, hu]
  · obtain ⟨v, hv, hcmd, -⟩ := hready.exists_accept hq
    exact ⟨v, hv, hcmd.carries⟩

/-! ### Back-to-back commands (R216) -/

/-- Settles O54: up to edge 34 the first command runs; its end is a ready state, in which the request at edge 34 begins
the second. -/
theorem heldStartRunsBackToBack : Obligations.HeldStartRunsBackToBack := by
  intro s ps p0 p34 hs hlen hreq hp0 hp34 n hn h68
  have hps : noReset ps := fun p hp => (hreq p hp).1
  have hq0 : p0.requests := hreq p0 (List.mem_of_getElem? hp0)
  have hq34 : p34.requests := hreq p34 (List.mem_of_getElem? hp34)
  rcases Nat.lt_or_ge 34 n with hlt | hle
  · obtain ⟨t, ht, hst, -⟩ := hs.exists_runPins_take (n := 34) hp0 hq0 hps (by decide) (by omega) le_rfl
    obtain ⟨m, rfl⟩ := Nat.exists_eq_add_of_le hlt.le
    have hhead : (ps.drop 34)[0]? = some p34 := by rw [List.getElem?_drop]; exact hp34
    have hlong : m ≤ (ps.drop 34).length := by rw [List.length_drop]; omega
    obtain ⟨u, hu, hsu, hkept⟩ := hst.ready.exists_runPins_take hhead hq34
      (fun p hp => hps p (List.mem_of_mem_drop hp)) (by omega) hlong (by omega)
    refine ⟨u, ?_, ?_, fun _ h67 => ?_, fun hend => ?_⟩
    · rw [List.take_add, runPins_append _ _ ht, hu]
    · rw [hsu.done_iff]; omega
    · exact (hkept (by omega)).trans hst.blockOut_eq
    · obtain rfl : m = 34 := by omega
      obtain ⟨-, hsbox, -⟩ := hst
      rw [hsu.blockOut_eq, hsbox]
  · obtain ⟨t, ht, hst, -⟩ := hs.exists_runPins_take hp0 hq0 hps hn (by omega) hle
    refine ⟨t, ht, ?_, fun h34 _ => ?_, fun hend => ?_⟩
    · rw [hst.done_iff]; omega
    · obtain rfl : n = 34 := by omega
      exact hst.blockOut_eq
    · omega

/-! ### A result kept until the next request (R214) -/

/-- Settles O56: NOP edges keep the registers, and the request after them is accepted with `OUT` as it was. -/
theorem resultIsKeptThroughNops : Obligations.ResultIsKeptThroughNops := by
  intro s ps hs hps
  obtain ⟨t, ht, hregs, hsbox, hready⟩ := hs.exists_runPins_nops hps
  refine ⟨t, ht, hregs, hsbox, hready, fun q hq => ?_⟩
  obtain ⟨u, hu, hcmd, hout⟩ := hready.exists_accept hq
  have hdone : ¬done u = true := mt hcmd.done_iff.mp (by decide)
  exact ⟨u, hu, Bool.eq_false_iff.mpr hdone, hout.trans (congrArg Registers.OUT hregs)⟩

end Sys2Proof.Machine
end

section
/-! PROOFS. The complementation property (V40): complementing commutes with every step of the network, because in each
round the expansion and the subkey are both complemented and the key mixing cancels the two. -/

namespace Sys2Proof.Machine

/-! ### Slices, permutations and rotations (R13, R117, R122) -/

/-- The library has this for slices that stop below the most significant bit only. -/
theorem extractLsb'_not_of_le {w start len : Nat} (v : BitVec w) (h : start + len ≤ w) :
    (~~~v).extractLsb' start len = ~~~(v.extractLsb' start len) := by
  ext i hi
  have hlt : start + i < w := by omega
  rw [BitVec.getElem_not, BitVec.getElem_extractLsb', BitVec.getElem_extractLsb', BitVec.getLsbD_not,
    decide_eq_true hlt, Bool.true_and]

@[simp] theorem permute_not {w n : Nat} (t : PermTable w n) (v : BitVec w) : permute t (~~~v) = ~~~(permute t v) := by
  rw [← BitVec.xor_allOnes, permute_xor, permute_allOnes, BitVec.xor_allOnes]

@[simp] theorem rotl28_not (x : KeyHalf) (n : Fin 28) : rotl28 (~~~x) n = ~~~(rotl28 x n) := by
  rw [← BitVec.xor_allOnes, rotl28_xor, rotl28_allOnes, BitVec.xor_allOnes]

/-! ### The key schedule (R120, R124, R125) -/

theorem pc1Split_not (key : Key) : pc1Split (~~~key) = (~~~(pc1Split key).1, ~~~(pc1Split key).2) := by
  rw [pc1Split, pc1perm, permute_not, hi28, lo28, extractLsb'_not_of_le _ (by decide),
    extractLsb'_not_of_le _ (by decide)]
  rfl

theorem subkey_not (c d : KeyHalf) : subkey (~~~c) (~~~d) = ~~~(subkey c d) := by
  rw [subkey, subkey, pc2perm, pc2perm, ← BitVec.not_append, permute_not]

theorem subkeyOf_not (key : Key) (r : Round) : subkeyOf (~~~key) r = ~~~(subkeyOf key r) := by
  simp only [subkeyOf_eq_rotl28, pc1Split_not, rotl28_not, subkey_not]

theorem generateSubkeys_not (key : Key) : generateSubkeys (~~~key) = (generateSubkeys key).map (~~~·) :=
  Vector.ext fun n hn => by
    rw [Vector.getElem_map, generateSubkeys_getElem _ hn, generateSubkeys_getElem _ hn, subkeyOf_not]

/-! ### One round (R142, R151) -/

/-- The xor of two complemented values is the xor of the values, so the S-boxes see the same chunks (R136). -/
theorem keyMix_not (e k : Subkey) : keyMix (~~~e) (~~~k) = keyMix e k := by
  rw [keyMix, keyMix, ← BitVec.not_xor_left, ← BitVec.not_xor_right, BitVec.not_not]

theorem f_not (t : SBox) (r : Half) (k : Subkey) : f t (~~~r) (~~~k) = f t r k := by
  rw [f, f, expand, expand, permute_not, keyMix_not]

/-- Both halves complemented. -/
def notHalves (lr : Half × Half) : Half × Half := (~~~lr.1, ~~~lr.2)

theorem feistelRound_not (t : SBox) (lr : Half × Half) (k : Subkey) :
    feistelRound t (notHalves lr) (~~~k) = notHalves (feistelRound t lr k) := by
  simp only [feistelRound, notHalves, f_not, BitVec.not_xor_left]

/-! ### The network (R150, R152, R154) -/

theorem ipSplit_not (b : Block) : ipSplit (~~~b) = notHalves (ipSplit b) := by
  rw [ipSplit, iperm, permute_not, hi32, lo32, extractLsb'_not_of_le _ (by decide),
    extractLsb'_not_of_le _ (by decide)]
  rfl

theorem combine_not (l r : Half) : combine (~~~l) (~~~r) = ~~~(combine l r) := BitVec.not_append.symm

theorem pairAfter_not (t : SBox) (lr : Half × Half) (q : RoundKeys) (n : Nat) (h : n ≤ 16) :
    pairAfter t (notHalves lr) (q.map (~~~·)) n h = notHalves (pairAfter t lr q n h) := by
  induction n with
  | zero => rfl
  | succ n ih => rw [pairAfter, pairAfter, ih (Nat.le_of_succ_le h), Vector.getElem_map, feistelRound_not]

theorem feistel_not (t : SBox) (b : Block) (q : RoundKeys) :
    feistel t (~~~b) (q.map (~~~·)) = ~~~(feistel t b q) := by
  rw [feistel, feistel, ipSplit_not, pairAfter_not, notHalves, combine_not, fperm, fperm, permute_not]

/-! ### Both directions (R170 to R172) -/

theorem encrypt_not (t : SBox) (b : Block) (key : Key) : encrypt t (~~~b) (~~~key) = ~~~(encrypt t b key) := by
  rw [encrypt, encrypt, generateSubkeys_not, feistel_not]

/-- `decrypt` inherits the property as the inverse of `encrypt`. -/
theorem decrypt_not (t : SBox) (b : Block) (key : Key) : decrypt t (~~~b) (~~~key) = ~~~(decrypt t b key) :=
  decrypt_of_encrypt_eq (by rw [encrypt_not, encrypt_decrypt])

/-- Settles O39: the network commutes with complementing, and `decrypt` undoes `encrypt`. -/
theorem complementedOperandsComplementResult : Obligations.ComplementedOperandsComplementResult :=
  fun t b k => ⟨encrypt_not t b k, decrypt_not t b k⟩

end Sys2Proof.Machine
end
